-- ==== Sys2Proof/Word.lean ====
section
/-! DEFINITION. The word types of YRD: bytes, 16-bit samples, command words and results (rules R53, R70, R72). -/

namespace Sys2Proof

/-- One byte of FB, of RASTER or of a command operand (rules R51, R52, R71). -/
abbrev Byte := BitVec 8

/-- A 16-bit RGB565 sample (rule R120). -/
abbrev Sample := BitVec 16

/-- A 64-bit command word (rule R70). -/
abbrev CmdWord := BitVec 64

/-- The 64-bit RESULT of a response (rule R72). -/
abbrev ResultWord := BitVec 64

end Sys2Proof
end

