-- ==== Sys2Proof/Syntax.lean ====
section
/-! DEFINITION. The seventeen commands of YRD, one constructor per row of spec/opcode_table.json (rules R71, R74). -/

namespace Sys2Proof

/-- A decoded command with its operands (rule R71). A signed operand is the integer `sval(A[31:0])` and a
pixel index the natural number `uval(A[31:0])`; `WellFormed` says which of them a command word can carry. -/
inductive Instr where
  /-- SET_GEOM w, h (rule R211). -/
  | setGeom (w h : BitVec 16)
  /-- SET_MODE fmt, exp, flip (rule R213). -/
  | setMode (fmt : BitVec 2) (exp flip : Bool)
  /-- GET_CFG (rule R215). -/
  | getCfg
  /-- GET_STATUS (rule R216). -/
  | getStatus
  /-- GET_FBLEN (rule R217). -/
  | getFblen
  /-- GET_RDIM (rule R218). -/
  | getRdim
  /-- RX_BYTE b (rule R101). -/
  | rxByte (b : Byte)
  /-- RX_END (rule R103). -/
  | rxEnd
  /-- DECODE (rule R180). -/
  | decodeFrame
  /-- RD_PIXEL p (rule R190). -/
  | rdPixel (p : Nat)
  /-- FN_CLIP8 x (rule R155). -/
  | fnClip8 (x : Int)
  /-- FN_RSHR8 x (rule R156). -/
  | fnRshr8 (x : Int)
  /-- FN_YUV2RGB Y, U, V (rule R157). -/
  | fnYuv2rgb (y u v : Byte)
  /-- FN_565S w (rule R125). -/
  | fn565s (w : Sample)
  /-- FN_565P w (rule R126). -/
  | fn565p (w : Sample)
  /-- FN_LUMA Y (rule R173). -/
  | fnLuma (y : Byte)
  /-- FN_YUYV2 Y0, U, Y1, V (rule R158). -/
  | fnYuyv2 (y0 u y1 v : Byte)
  deriving DecidableEq, Repr

end Sys2Proof
end

