-- ==== Sys2Proof/WellFormed.lean ====
section
/-! DEFINITION. Which commands a command word can carry: the operand ranges of rule R71. -/

namespace Sys2Proof

/-- The range of an S32 operand, `-2^31 .. 2^31-1` (rule R71). -/
def inS32 (x : Int) : Bool := decide (-2147483648 ≤ x) && decide (x ≤ 2147483647)

/-- The range of an IDX operand, an unsigned 32-bit index (rule R71). -/
def inIdx (p : Nat) : Bool := decide (p < 4294967296)

/-- The operands are in the ranges of their operand format (rule R71). Every operand that is a bit field of
fixed width is in range by its type; the signed operand and the pixel index are checked. -/
def WellFormed : Instr → Bool
  | .setGeom _ _ => true
  | .setMode _ _ _ => true
  | .getCfg => true
  | .getStatus => true
  | .getFblen => true
  | .getRdim => true
  | .rxByte _ => true
  | .rxEnd => true
  | .decodeFrame => true
  | .rdPixel p => inIdx p
  | .fnClip8 x => inS32 x
  | .fnRshr8 x => inS32 x
  | .fnYuv2rgb _ _ _ => true
  | .fn565s _ => true
  | .fn565p _ => true
  | .fnLuma _ => true
  | .fnYuyv2 _ _ _ _ => true

end Sys2Proof
end

