-- ==== Sys2Proof/Decode.lean ====
section
/-! DEFINITION. The decoder of command words (rules R70, R71, R74, R75) and, after it, the encoder. -/

namespace Sys2Proof

/-- The seventeen assigned opcodes, the rows of rule R74. -/
inductive Opcode where
  | setGeom | setMode | getCfg | getStatus | getFblen | getRdim | rxByte | rxEnd | decodeFrame | rdPixel
  | fnClip8 | fnRshr8 | fnYuv2rgb | fn565s | fn565p | fnLuma | fnYuyv2
  deriving DecidableEq, Repr

/-- The ten operand formats of rule R71. -/
inductive Format where
  | z | geom | mode | byte | idx | s32 | yuv | w16 | y8 | grp
  deriving DecidableEq, Repr

/-- Why a word is no command (rule R75: each of the three lines that raise ILLEGAL_CMD). -/
inductive DecodeError where
  /-- `c[55:32] != 0` (rule R75, first line). -/
  | reservedRsv
  /-- No row of rule R74 has this OP (rules R75, R76). -/
  | unassignedOpcode
  /-- A bit of A that the row's operand format marks 0 is set (rules R71, R75). -/
  | reservedOperandBit
  deriving DecidableEq, Repr

/-- OP = c[63:56] (rule R70). -/
def opField (c : CmdWord) : BitVec 8 := c.extractLsb' 56 8

/-- RSV = c[55:32] (rule R70). -/
def rsvField (c : CmdWord) : BitVec 24 := c.extractLsb' 32 24

/-- A = c[31:0] (rule R70). -/
def argField (c : CmdWord) : BitVec 32 := c.extractLsb' 0 32

/-- The OP column of rule R74. -/
def Opcode.code : Opcode → BitVec 8
  | .setGeom => 0x01
  | .setMode => 0x02
  | .getCfg => 0x03
  | .getStatus => 0x04
  | .getFblen => 0x05
  | .getRdim => 0x06
  | .rxByte => 0x10
  | .rxEnd => 0x11
  | .decodeFrame => 0x20
  | .rdPixel => 0x21
  | .fnClip8 => 0x30
  | .fnRshr8 => 0x31
  | .fnYuv2rgb => 0x32
  | .fn565s => 0x33
  | .fn565p => 0x34
  | .fnLuma => 0x35
  | .fnYuyv2 => 0x36

/-- The format column of rule R74. -/
def Opcode.format : Opcode → Format
  | .setGeom => .geom
  | .setMode => .mode
  | .getCfg => .z
  | .getStatus => .z
  | .getFblen => .z
  | .getRdim => .z
  | .rxByte => .byte
  | .rxEnd => .z
  | .decodeFrame => .z
  | .rdPixel => .idx
  | .fnClip8 => .s32
  | .fnRshr8 => .s32
  | .fnYuv2rgb => .yuv
  | .fn565s => .w16
  | .fn565p => .w16
  | .fnLuma => .y8
  | .fnYuyv2 => .grp

/-- The bits of A that each operand format marks 0 (rule R71). -/
def Format.reservedBits : Format → BitVec 32
  | .z => 0xFFFFFFFF
  | .geom => 0x00000000
  | .mode => 0xFFFFFFF0
  | .byte => 0xFFFFFF00
  | .idx => 0x00000000
  | .s32 => 0x00000000
  | .yuv => 0xFF000000
  | .w16 => 0xFFFF0000
  | .y8 => 0xFFFFFF00
  | .grp => 0x00000000

/-- The mask of a row: OP, RSV and every reserved bit of A (rule R74). -/
def Opcode.mask (o : Opcode) : CmdWord := (0xFF#8 ++ 0xFFFFFF#24 ++ o.format.reservedBits : BitVec 64)

/-- The match value of a row: its OP, and 0 everywhere else (rule R74). -/
def Opcode.matchWord (o : Opcode) : CmdWord := (o.code ++ 0#24 ++ 0#32 : BitVec 64)

/-- The rows of rule R74 in the table's order. -/
def Opcode.all : List Opcode :=
  [.setGeom, .setMode, .getCfg, .getStatus, .getFblen, .getRdim, .rxByte, .rxEnd, .decodeFrame, .rdPixel,
   .fnClip8, .fnRshr8, .fnYuv2rgb, .fn565s, .fn565p, .fnLuma, .fnYuyv2]

/-- The row of rule R74 with a given OP, if there is one (rule R75). -/
def Opcode.ofCode (b : BitVec 8) : Option Opcode := Opcode.all.find? fun o => o.code == b

/-- The command a row and its operand field A stand for (rules R71, R73). -/
def assemble (o : Opcode) (a : BitVec 32) : Instr :=
  match o with
  | .setGeom => .setGeom (a.extractLsb' 16 16) (a.extractLsb' 0 16)
  | .setMode => .setMode (a.extractLsb' 0 2) (a.getLsbD 2) (a.getLsbD 3)
  | .getCfg => .getCfg
  | .getStatus => .getStatus
  | .getFblen => .getFblen
  | .getRdim => .getRdim
  | .rxByte => .rxByte (a.extractLsb' 0 8)
  | .rxEnd => .rxEnd
  | .decodeFrame => .decodeFrame
  | .rdPixel => .rdPixel a.toNat
  | .fnClip8 => .fnClip8 a.toInt
  | .fnRshr8 => .fnRshr8 a.toInt
  | .fnYuv2rgb => .fnYuv2rgb (a.extractLsb' 16 8) (a.extractLsb' 8 8) (a.extractLsb' 0 8)
  | .fn565s => .fn565s (a.extractLsb' 0 16)
  | .fn565p => .fn565p (a.extractLsb' 0 16)
  | .fnLuma => .fnLuma (a.extractLsb' 0 8)
  | .fnYuyv2 =>
    .fnYuyv2 (a.extractLsb' 0 8) (a.extractLsb' 8 8) (a.extractLsb' 16 8) (a.extractLsb' 24 8)

/-- The decoder of rule R75. It is total: every 64-bit word is one command or is refused by name. -/
def decode (c : CmdWord) : Except DecodeError Instr :=
  if rsvField c ≠ 0 then .error .reservedRsv
  else
    match Opcode.ofCode (opField c) with
    | none => .error .unassignedOpcode
    | some o =>
      if c &&& o.mask ≠ o.matchWord then .error .reservedOperandBit
      else .ok (assemble o (argField c))

/-- The decoder as the host asks for it: `w` holds `nbits` bits of the command word, every bit above them is 0.
A command is one 64-bit word with no byte order (rules R54, R78), so a number that does not fit is refused. -/
def decodeTableWord (nbits w : Nat) : Option Instr :=
  let bits := w % 2 ^ nbits
  if bits < 18446744073709551616 then (decode (BitVec.ofNat 64 bits)).toOption else none

/-- The row of rule R74 a command belongs to. -/
def Instr.opcode : Instr → Opcode
  | .setGeom _ _ => .setGeom
  | .setMode _ _ _ => .setMode
  | .getCfg => .getCfg
  | .getStatus => .getStatus
  | .getFblen => .getFblen
  | .getRdim => .getRdim
  | .rxByte _ => .rxByte
  | .rxEnd => .rxEnd
  | .decodeFrame => .decodeFrame
  | .rdPixel _ => .rdPixel
  | .fnClip8 _ => .fnClip8
  | .fnRshr8 _ => .fnRshr8
  | .fnYuv2rgb _ _ _ => .fnYuv2rgb
  | .fn565s _ => .fn565s
  | .fn565p _ => .fn565p
  | .fnLuma _ => .fnLuma
  | .fnYuyv2 _ _ _ _ => .fnYuyv2

/-- The operand field A of a command, laid out as its operand format says (rule R71). -/
def Instr.arg : Instr → BitVec 32
  | .setGeom w h => (w ++ h : BitVec 32)
  | .setMode fmt exp flip => (0#28 ++ BitVec.ofBool flip ++ BitVec.ofBool exp ++ fmt : BitVec 32)
  | .getCfg => 0
  | .getStatus => 0
  | .getFblen => 0
  | .getRdim => 0
  | .rxByte b => (0#24 ++ b : BitVec 32)
  | .rxEnd => 0
  | .decodeFrame => 0
  | .rdPixel p => BitVec.ofNat 32 p
  | .fnClip8 x => BitVec.ofInt 32 x
  | .fnRshr8 x => BitVec.ofInt 32 x
  | .fnYuv2rgb y u v => (0#8 ++ y ++ u ++ v : BitVec 32)
  | .fn565s w => (0#16 ++ w : BitVec 32)
  | .fn565p w => (0#16 ++ w : BitVec 32)
  | .fnLuma y => (0#24 ++ y : BitVec 32)
  | .fnYuyv2 y0 u y1 v => (v ++ y1 ++ u ++ y0 : BitVec 32)

/-- The command word of a command: OP, RSV = 0 and A (rule R70). -/
def encode (i : Instr) : CmdWord := (i.opcode.code ++ 0#24 ++ i.arg : BitVec 64)

end Sys2Proof
end

