-- ==== Sys2Proof/Config.lean ====
section
/-! DEFINITION. The one open parameter of the implementation, FB_CAPACITY (rule R6, 92_eei_decisions.md D8). -/

namespace Sys2Proof

/-- How far FB_CAPACITY lies above its least legal value 153600. It has no body: FB_CAPACITY is OPEN
(rule R6, U4), so a claim holds for every legal capacity (log entry 4). The bound of the type is
`2^31 - 1 - 153600 + 1`. -/
opaque Config.fbSlack : Fin 2147330048

/-- The least FB_CAPACITY an implementation may have (rule R6). -/
def Config.fbCapacityMin : Nat := 153600

/-- The greatest FB_CAPACITY an implementation may have, `2^31 - 1` (rule R6). -/
def Config.fbCapacityMax : Nat := 2147483647

/-- FB_CAPACITY, the size of the frame buffer in bytes (rule R6). -/
def Config.fbCapacity : Nat := Config.fbSlack.val + Config.fbCapacityMin

/-- The raster capacity in bytes, `3 * (FB_CAPACITY div 2)` (rule R6). -/
def Config.rasterCapacity : Nat := 3 * (Config.fbCapacity / 2)

end Sys2Proof
end

