-- ==== Sys2Proof/Machine/State.lean ====
section
/-! DEFINITION. The state of YRD: the twelve registers of rule R22, the memories FB and RASTER (rule R37), and the
model's own interface fields, what the host presents and what the block has answered (rules R12, R13, R72). -/

namespace Sys2Proof.Machine

open Sys2Proof

/-- A byte memory: the bytes that have been written, by rising index. An index that is not listed holds no
value, because the spec leaves the contents at reset unspecified (rule R37; DESIGN CHOICE, safe, log entry 3). -/
abbrev Memory := List Host.Cell

/-- The status codes of rule R240, in the order of their numbers. -/
inductive Status where
  /-- 0, the command did its full effect. -/
  | ok
  /-- 1, the byte was stored and completed a frame. -/
  | frameDone
  /-- 2, the stream ended before a whole frame. -/
  | incompleteFrame
  /-- 3, the held frame's length differs from `W*H*2`. -/
  | sizeMismatch
  /-- 4, FMT = 3, a tag with no decoder. -/
  | unsupportedFormat
  /-- 5, no SET_MODE since reset. -/
  | notConfigured
  /-- 6, no complete frame held. -/
  | noFrame
  /-- 7, a complete frame is held. -/
  | busy
  /-- 8, illegal geometry, or odd W under YUV422. -/
  | badConfig
  /-- 9, no valid raster. -/
  | noRaster
  /-- 10, pixel index past the raster. -/
  | range
  /-- 11, unassigned opcode or a reserved bit set. -/
  | illegalCmd
  deriving DecidableEq, Repr

/-- The response to one command (rule R72). -/
structure Response where
  /-- STATUS; its 4-bit code is `Status.code`. -/
  status : Status
  /-- RESULT. -/
  result : ResultWord
  deriving DecidableEq, Repr

/-- What the outside world presents to the block between steps (rules R12, R270). -/
inductive Input where
  /-- One command word of the host (rule R70). -/
  | command (c : CmdWord)
  /-- The hardware reset input (rule R270). -/
  | reset
  deriving DecidableEq, Repr

/-- The whole state of the block (rules R22, R37), with the interface fields `inputs` and `responses`, which are
the model's own (log entries 1 and 2). -/
structure State where
  /-- W, frame width in pixels. -/
  w : BitVec 16
  /-- H, frame height in pixels. -/
  h : BitVec 16
  /-- FMT, pixel format code (rule R23). -/
  fmt : BitVec 2
  /-- EXP, RGB565 expansion policy: false shift, true proportional (rule R24). -/
  exp : Bool
  /-- FLIP, row order: false stream order, true reversed (rule R25). -/
  flip : Bool
  /-- MODE_VALID (rule R27). -/
  modeValid : Bool
  /-- COUNT, bytes of the current partial frame held in FB (rule R26). -/
  count : BitVec 32
  /-- FRAME_READY (rule R28). -/
  frameReady : Bool
  /-- FB_LEN, length in bytes of the complete frame held (rule R28). -/
  fbLen : BitVec 32
  /-- RASTER_VALID (rule R29). -/
  rasterValid : Bool
  /-- RAST_W, width of the raster held (rule R29). -/
  rastW : BitVec 16
  /-- RAST_H, height of the raster held (rule R29). -/
  rastH : BitVec 16
  /-- FB, the frame buffer (rule R51). -/
  fb : Memory
  /-- RASTER, the raster store (rule R52). -/
  raster : Memory
  /-- What the outside presents, the next input first (model's own, log entry 1). -/
  inputs : List Input
  /-- Every response the block has returned, the latest first (model's own, log entry 2). -/
  responses : List Response
  deriving DecidableEq, Repr

/-- The reasons for which the model stops. No rule of the spec names one: YRD never stops (rule R13). Each is
SAFE, and none is met in a state that satisfies the invariant of Safety.lean. -/
inductive Fault where
  /-- An FB index at or past FB_CAPACITY, which does not exist (rule R51). Raised by RX_BYTE and DECODE in states
  no run reaches. Safe: the model stops where the spec gives nothing (log entry 5). -/
  | fbOutOfRange
  /-- A read of an FB byte that nothing has written (rules R28, R37). Raised by DECODE in states no run reaches.
  Safe (log entry 3). -/
  | fbUnwritten
  /-- A RASTER index at or past the raster capacity, which does not exist (rule R52). Raised by DECODE and RD_PIXEL
  in states no run reaches. Safe (log entry 5). -/
  | rasterOutOfRange
  /-- A read of a RASTER byte that nothing has written (rules R29, R37). Raised by RD_PIXEL in states no run
  reaches. Safe (log entry 3). -/
  | rasterUnwritten
  deriving DecidableEq, Repr

/-- The reasons for which an instruction has no meaning. None of this model's instructions is refused. -/
inductive Refusal where
  /-- An instruction of the table without a meaning, by its mnemonic. Raised by no arm of `exec`. Safe. -/
  | notModelled (mnemonic : String)
  deriving DecidableEq, Repr

/-- What one command, or one step, answers. -/
abbrev Outcome := Host.Outcome State Fault Refusal

/-- The machine right after reset: every register at the value rule R22 gives, both memories without a written
byte (rule R270), no input presented and no response returned yet. -/
def State.reset : State where
  w := 320
  h := 240
  fmt := 0
  exp := false
  flip := false
  modeValid := false
  count := 0
  frameReady := false
  fbLen := 0
  rasterValid := false
  rastW := 0
  rastH := 0
  fb := []
  raster := []
  inputs := []
  responses := []

end Sys2Proof.Machine
end

