-- ==== Sys2Proof/Machine/Flags.lean ====
section
/-! DEFINITION. The status codes as numbers (rule R240) and the three status flags of rule R35 with the registers they
go with: what sets and clears FRAME_READY, RASTER_VALID and MODE_VALID. -/

namespace Sys2Proof.Machine

open Sys2Proof

/-- The 4-bit code of a status (rule R240). -/
def Status.code : Status → BitVec 4
  | .ok => 0
  | .frameDone => 1
  | .incompleteFrame => 2
  | .sizeMismatch => 3
  | .unsupportedFormat => 4
  | .notConfigured => 5
  | .noFrame => 6
  | .busy => 7
  | .badConfig => 8
  | .noRaster => 9
  | .range => 10
  | .illegalCmd => 11

/-- The frame is complete: FRAME_READY is set, FB_LEN is its length `e` and COUNT starts again (rule R101). -/
def State.completeFrame (s : State) (e : Nat) : State :=
  { s with frameReady := true, fbLen := BitVec.ofNat 32 e, count := 0 }

/-- The frame is consumed: FRAME_READY and FB_LEN are cleared (rule R189). -/
def State.consumeFrame (s : State) : State :=
  { s with frameReady := false, fbLen := 0 }

/-- The raster is valid and has the dimensions W and H now in force (rule R186). -/
def State.validateRaster (s : State) : State :=
  { s with rasterValid := true, rastW := s.w, rastH := s.h }

/-- The raster is invalid and has no dimensions (rule R185). -/
def State.invalidateRaster (s : State) : State :=
  { s with rasterValid := false, rastW := 0, rastH := 0 }

/-- The mode is set as a whole, and MODE_VALID with it (rules R213, R214). -/
def State.setModeFields (s : State) (fmt : BitVec 2) (exp flip : Bool) : State :=
  { s with fmt := fmt, exp := exp, flip := flip, modeValid := true }

/-- The geometry is set, and a partial frame is discarded (rules R211, R212). -/
def State.setGeometry (s : State) (w h : BitVec 16) : State :=
  { s with w := w, h := h, count := 0 }

/-- A partial frame is discarded (rules R103, R38). -/
def State.discardPartial (s : State) : State :=
  { s with count := 0 }

end Sys2Proof.Machine
end

