-- ==== Sys2Proof/Machine/Operands.lean ====
section
/-! DEFINITION. Integer notation (rule R8), the RGB888 pixel, and the result formats NONE, PIX, PIX2, U8, S64 and
REG of rule R72. The operand formats of rule R71 are in Decode.lean. -/

namespace Sys2Proof.Machine

open Sys2Proof

/-- `a >> n`, the arithmetic right shift: the floor of `a / 2^n` (rule R8). -/
def asr (a : Int) (n : Nat) : Int := a / 2 ^ n

/-- An RGB888 pixel (rule R52). -/
structure Rgb where
  r : Byte
  g : Byte
  b : Byte
  deriving DecidableEq, Repr

/-- The three raster bytes of a pixel, R, G, B in that order (rule R52). -/
def Rgb.bytes (q : Rgb) : List Byte := [q.r, q.g, q.b]

/-- An integer in 0..255 as a byte, `v[7:0]` (rules R7, R8). -/
def byteOfInt (x : Int) : Byte := BitVec.ofInt 8 x

/-- Result format PIX: R in bits 23:16, G in 15:8, B in 7:0, the rest 0 (rule R72). -/
def pixResult (q : Rgb) : ResultWord := (0#40 ++ q.r ++ q.g ++ q.b : BitVec 64)

/-- Result format PIX2: the first pixel in bits 23:0, the second in bits 55:32 (rule R72). -/
def pix2Result (p0 p1 : Rgb) : ResultWord :=
  (0#8 ++ p1.r ++ p1.g ++ p1.b ++ 0#8 ++ p0.r ++ p0.g ++ p0.b : BitVec 64)

/-- Result format U8: `zext_64` of a value in 0..255 (rules R8, R72). -/
def u8Result (x : Int) : ResultWord := (0#56 ++ byteOfInt x : BitVec 64)

/-- Result format S64: `sext_64` of a value (rules R8, R72). -/
def s64Result (x : Int) : ResultWord := BitVec.ofInt 64 x

/-- The layout of GET_CFG: FLIP, EXP, FMT in bits 35:32, W in 31:16, H in 15:0 (rules R30, R31, R215). -/
def cfgResult (s : State) : ResultWord :=
  (0#28 ++ BitVec.ofBool s.flip ++ BitVec.ofBool s.exp ++ s.fmt ++ s.w ++ s.h : BitVec 64)

/-- The layout of GET_STATUS: COUNT in bits 63:32, then 0, MODE_VALID, RASTER_VALID, FRAME_READY in bits 2, 1, 0
(rules R32, R216). -/
def statusResult (s : State) : ResultWord :=
  (s.count ++ 0#29 ++ BitVec.ofBool s.modeValid ++ BitVec.ofBool s.rasterValid ++ BitVec.ofBool s.frameReady
    : BitVec 64)

/-- The layout of GET_FBLEN: FB_LEN in bits 31:0 (rules R33, R217). -/
def fblenResult (s : State) : ResultWord := (0#32 ++ s.fbLen : BitVec 64)

/-- The layout of GET_RDIM: RAST_W in bits 31:16, RAST_H in 15:0 (rules R34, R218). -/
def rdimResult (s : State) : ResultWord := (0#32 ++ s.rastW ++ s.rastH : BitVec 64)

end Sys2Proof.Machine
end

