-- ==== Sys2Proof/Machine/Ops.lean ====
section
/-! DEFINITION. The operations over memories and registers that the commands share: reading and writing FB and RASTER
(rules R9, R50 to R52), the frame size (rule R6), and how a command ends (`respond` and `raise` of rule R9). -/

namespace Sys2Proof.Machine

open Sys2Proof

/-- The byte a memory holds at an index, if one has been written there. -/
def Memory.read : Memory → Nat → Option Byte
  | [], _ => none
  | (a, b) :: m, i => if i = a then some b else Memory.read m i

/-- A memory with the byte `v` at index `i`: the indices stay strictly rising. -/
def Memory.write : Memory → Nat → Byte → Memory
  | [], i, v => [(i, v)]
  | (a, b) :: m, i, v =>
    if i < a then (i, v) :: (a, b) :: m
    else if i = a then (i, v) :: m
    else (a, b) :: Memory.write m i v

/-- A memory with the given bytes from index `i` on. -/
def Memory.writeBytes : Memory → Nat → List Byte → Memory
  | m, _, [] => m
  | m, i, v :: vs => Memory.writeBytes (Memory.write m i v) (i + 1) vs

/-- The canonical form of a memory: indices strictly rising. An index that is not listed has no value, so no entry
can equal what an unlisted index reads as. -/
def Memory.wf (m : Memory) : Bool := decide (List.Pairwise (fun c d => c.1 < d.1) m)

/-- `n` bytes fit in the frame buffer, `n <= FB_CAPACITY` (rule R6; `fitsFb_iff` says so). It is written so that
it can be evaluated for every `n` that every legal capacity accepts, or none does. -/
def fitsFb (n : Nat) : Bool :=
  decide (n ≤ Config.fbCapacityMin) ||
    (decide (n ≤ Config.fbCapacityMax) && decide (n - Config.fbCapacityMin ≤ Config.fbSlack.val))

/-- FB has a byte of index `i`, `i < FB_CAPACITY` (rule R51). -/
def fbExists (i : Nat) : Bool := fitsFb (i + 1)

/-- RASTER has a byte of index `i`, `i < 3 * (FB_CAPACITY div 2)` (rule R52): its pixel `i div 3` has its two
frame bytes inside FB. -/
def rasterExists (i : Nat) : Bool := fitsFb (2 * (i / 3) + 2)

/-- The number of bytes of one frame, `W * H * BPP` with BPP = 2 (rules R6, R102). -/
def frameSize (w h : BitVec 16) : Nat := w.toNat * h.toNat * 2

/-- `FB[i]` (rules R9, R51). -/
def readFb (s : State) (i : Nat) : Except Fault Byte :=
  if fbExists i = true then
    match Memory.read s.fb i with
    | some b => .ok b
    | none => .error .fbUnwritten
  else .error .fbOutOfRange

/-- `FB[i] <- v` (rules R9, R51). -/
def writeFb (s : State) (i : Nat) (v : Byte) : Except Fault State :=
  if fbExists i = true then .ok { s with fb := Memory.write s.fb i v } else .error .fbOutOfRange

/-- `RASTER[i]` (rules R9, R52). -/
def readRaster (s : State) (i : Nat) : Except Fault Byte :=
  if rasterExists i = true then
    match Memory.read s.raster i with
    | some b => .ok b
    | none => .error .rasterUnwritten
  else .error .rasterOutOfRange

/-- `RASTER[0 ..] <- vs`, all bytes as one atomic write (rule R186). -/
def writeRaster (s : State) (vs : List Byte) : Except Fault State :=
  if (vs.isEmpty || rasterExists (vs.length - 1)) = true then
    .ok { s with raster := Memory.writeBytes s.raster 0 vs }
  else .error .rasterOutOfRange

/-- Pixel `p` of the raster: bytes 3p, 3p+1 and 3p+2 hold R, G and B (rule R52). -/
def readPixel (s : State) (p : Nat) : Except Fault Rgb := do
  let r ← readRaster s (3 * p)
  let g ← readRaster s (3 * p + 1)
  let b ← readRaster s (3 * p + 2)
  .ok ⟨r, g, b⟩

/-- The state with one more response returned (rules R10, R72). -/
def State.answer (s : State) (st : Status) (v : ResultWord) : State :=
  { s with responses := ⟨st, v⟩ :: s.responses }

/-- `respond(S, v)`: the command ends with status S and RESULT v (rule R9). -/
def respond (st : Status) (v : ResultWord) (s : State) : Outcome := .next (s.answer st v)

/-- `raise S`: the same as `respond(S, 0)`; the state writes before it stand (rules R9, R242). This is the whole of
taking an error on YRD, which has no trap entry and no trap return (rules R253, R254). -/
def raise (st : Status) (s : State) : Outcome := respond st 0 s

/-- Goes on with the value of a memory access; an access to a byte that does not exist stops the model. -/
def onOk {α : Type} (x : Except Fault α) (k : α → Outcome) : Outcome :=
  match x with
  | .ok a => k a
  | .error e => .fault e

/-- Every register at the reset value of rule R22 and both memories without a written byte (rule R270); what the
host has still to present and what it has been answered are not the block's to reset. -/
def State.hardReset (s : State) : State :=
  { State.reset with inputs := s.inputs, responses := s.responses }

end Sys2Proof.Machine
end

