-- ==== Sys2Proof/Machine/ConfigStatus.lean ====
section
/-! DEFINITION. The configuration and status commands: SET_GEOM, SET_MODE, GET_CFG, GET_STATUS, GET_FBLEN, GET_RDIM
(rules R210 to R218). -/

namespace Sys2Proof.Machine

open Sys2Proof

/-- A geometry SET_GEOM accepts: neither side 0, and the frame fits in FB (rules R30, R211). -/
def legalGeometry (w h : BitVec 16) : Bool := w != 0 && h != 0 && fitsFb (frameSize w h)

/-- SET_GEOM (rules R211, R212). -/
def execSetGeom (w h : BitVec 16) (s : State) : Outcome :=
  if legalGeometry w h = true then respond .ok 0 (s.setGeometry w h) else raise .badConfig s

/-- SET_MODE (rules R213, R214): every value of `fmt` is stored, 3 too. -/
def execSetMode (fmt : BitVec 2) (exp flip : Bool) (s : State) : Outcome :=
  respond .ok 0 (s.setModeFields fmt exp flip)

/-- GET_CFG (rule R215). -/
def execGetCfg (s : State) : Outcome := respond .ok (cfgResult s) s

/-- GET_STATUS (rule R216). -/
def execGetStatus (s : State) : Outcome := respond .ok (statusResult s) s

/-- GET_FBLEN (rule R217). -/
def execGetFblen (s : State) : Outcome := respond .ok (fblenResult s) s

/-- GET_RDIM (rule R218). -/
def execGetRdim (s : State) : Outcome := respond .ok (rdimResult s) s

end Sys2Proof.Machine
end

