-- ==== Sys2Proof/Machine/Luma.lean ====
section
/-! DEFINITION. The luma-only decoder: the frame decoder of FMT = 2 (rules R170 to R172) and FN_LUMA (R173). -/

namespace Sys2Proof.Machine

open Sys2Proof

/-- The grey pixel of a luma byte, copied unchanged into all three channels (rule R171). -/
def grey (y : Byte) : Rgb := ⟨y, y, y⟩

/-- `pixluma(i)`: the luma byte at the even offset of the pixel `i` in stream order (rule R171). -/
def pixLuma (s : State) (i : Nat) : Except Fault Rgb := do
  let y ← readFb s (2 * i)
  .ok (grey y)

/-- FN_LUMA (rule R173). -/
def execFnLuma (y : Byte) (s : State) : Outcome := respond .ok (pixResult (grey y)) s

end Sys2Proof.Machine
end

