-- ==== Sys2Proof/Machine/Rgb565.lean ====
section
/-! DEFINITION. The RGB565 unpacker: the two expansions (rules R120 to R122), the frame decoder of FMT = 0 (R124), and
FN_565S and FN_565P (R125, R126). -/

namespace Sys2Proof.Machine

open Sys2Proof

/-- R5 = w[15:11] (rule R120). -/
def field5R (w : Sample) : Nat := (w.extractLsb' 11 5).toNat

/-- G6 = w[10:5] (rule R120). -/
def field6G (w : Sample) : Nat := (w.extractLsb' 5 6).toNat

/-- B5 = w[4:0] (rule R120). -/
def field5B (w : Sample) : Nat := (w.extractLsb' 0 5).toNat

/-- Shift expansion: `R5 << 3`, `G6 << 2`, `B5 << 3` (rule R121). -/
def expandShift (w : Sample) : Rgb where
  r := byteOfInt (field5R w * 2 ^ 3)
  g := byteOfInt (field6G w * 2 ^ 2)
  b := byteOfInt (field5B w * 2 ^ 3)

/-- Proportional expansion, with floor division (rule R122). -/
def expandProp (w : Sample) : Rgb where
  r := byteOfInt (field5R w * 255 / 31)
  g := byteOfInt (field6G w * 255 / 63)
  b := byteOfInt (field5B w * 255 / 31)

/-- `word(i) = FB[2i] + 256 * FB[2i+1]`, little-endian (rules R53, R124). -/
def fbWord (s : State) (i : Nat) : Except Fault Sample := do
  let lo ← readFb s (2 * i)
  let hi ← readFb s (2 * i + 1)
  .ok (hi ++ lo : BitVec 16)

/-- `pix565(i)`: the policy EXP selects, for the pixel `i` in stream order (rule R124). -/
def pix565 (s : State) (i : Nat) : Except Fault Rgb := do
  let w ← fbWord s i
  .ok (if s.exp = true then expandProp w else expandShift w)

/-- FN_565S (rule R125). -/
def execFn565s (w : Sample) (s : State) : Outcome := respond .ok (pixResult (expandShift w)) s

/-- FN_565P (rule R126). -/
def execFn565p (w : Sample) (s : State) : Outcome := respond .ok (pixResult (expandProp w)) s

end Sys2Proof.Machine
end

