-- ==== Sys2Proof/Machine/Yuv422.lean ====
section
/-! DEFINITION. The YUV422 decoder: saturation and rounding (rules R140, R141), the BT.601 matrix (R143 to R148), the
chroma upsampler (R150 to R152), and FN_CLIP8, FN_RSHR8, FN_YUV2RGB and FN_YUYV2 (R155 to R158). Arithmetic is
over the integers (rules R8, R142). -/

namespace Sys2Proof.Machine

open Sys2Proof

/-- `clip8(x) = max(0, min(255, x))` (rule R140). -/
def clip8 (x : Int) : Int := max 0 (min 255 x)

/-- `rnd8(m) = (m + 128) >> 8` (rule R141). -/
def rnd8 (m : Int) : Int := asr (m + 128) 8

/-- `C = Y - 16` (rule R143). -/
def offC (y : Byte) : Int := y.toNat - 16

/-- `D = U - 128` (rule R143). -/
def offD (u : Byte) : Int := u.toNat - 128

/-- `E = V - 128` (rule R143). -/
def offE (v : Byte) : Int := v.toNat - 128

/-- The accumulator `aR = 298*C + 409*E + 128` (rules R144, R145). -/
def accR (y _u v : Byte) : Int := 298 * offC y + 409 * offE v + 128

/-- The accumulator `aG = 298*C - 100*D - 208*E + 128` (rules R144, R145). -/
def accG (y u v : Byte) : Int := 298 * offC y - 100 * offD u - 208 * offE v + 128

/-- The accumulator `aB = 298*C + 516*D + 128` (rules R144, R145). -/
def accB (y u _v : Byte) : Int := 298 * offC y + 516 * offD u + 128

/-- The pixel function `yuv2rgb` (rules R145, R148). -/
def yuv2rgb (y u v : Byte) : Rgb where
  r := byteOfInt (clip8 (asr (accR y u v) 8))
  g := byteOfInt (clip8 (asr (accG y u v) 8))
  b := byteOfInt (clip8 (asr (accB y u v) 8))

/-- `pixyuv(i)`: the luma of the pixel `i` in stream order with the chroma of its pair (rules R151, R152). -/
def pixYuv (s : State) (i : Nat) : Except Fault Rgb := do
  let y ← readFb s (2 * i)
  let u ← readFb s (4 * (i / 2) + 1)
  let v ← readFb s (4 * (i / 2) + 3)
  .ok (yuv2rgb y u v)

/-- FN_CLIP8 (rule R155). -/
def execFnClip8 (x : Int) (s : State) : Outcome := respond .ok (u8Result (clip8 x)) s

/-- FN_RSHR8 (rule R156): the sum is exact, and the shift rounds down. -/
def execFnRshr8 (x : Int) (s : State) : Outcome := respond .ok (s64Result (rnd8 x)) s

/-- FN_YUV2RGB (rule R157). -/
def execFnYuv2rgb (y u v : Byte) (s : State) : Outcome := respond .ok (pixResult (yuv2rgb y u v)) s

/-- FN_YUYV2 (rule R158): the two pixels of a group share U and V. -/
def execFnYuyv2 (y0 u y1 v : Byte) (s : State) : Outcome :=
  respond .ok (pix2Result (yuv2rgb y0 u v) (yuv2rgb y1 u v)) s

end Sys2Proof.Machine
end

