-- ==== Sys2Proof/Machine/Decoder.lean ====
section
/-! DEFINITION. Format dispatch, raster write, row order and raster read-out: DECODE and RD_PIXEL (rules R180 to
R191). -/

namespace Sys2Proof.Machine

open Sys2Proof

/-- The closed enumeration of pixel formats (rules R4, R23). -/
inductive PixelFormat where
  /-- RGB565, FMT = 0. -/
  | rgb565
  /-- YUV422_YUYV, FMT = 1. -/
  | yuv422
  /-- LUMA8, FMT = 2. -/
  | luma8
  deriving DecidableEq, Repr

/-- The format a code of FMT stands for; 3 has no decoder (rule R23). -/
def formatOfCode (c : BitVec 2) : Option PixelFormat :=
  if c = 0 then some .rgb565
  else if c = 1 then some .yuv422
  else if c = 2 then some .luma8
  else none

/-- `pix(i)`: the per-pixel function of a format, for the pixel `i` in stream order (rule R188). -/
def pix (f : PixelFormat) (s : State) (i : Nat) : Except Fault Rgb :=
  match f with
  | .rgb565 => pix565 s i
  | .yuv422 => pixYuv s i
  | .luma8 => pixLuma s i

/-- `srcrow(r)`: row `r` itself, or `H - 1 - r` when FLIP is set (rule R187). -/
def srcRow (flip : Bool) (h r : Nat) : Nat := if flip = true then h - 1 - r else r

/-- Raster pixel `p = r*W + c` takes the stream-order pixel `srcrow(r)*W + c` (rule R187). -/
def rasterPixel (f : PixelFormat) (s : State) (p : Nat) : Except Fault Rgb :=
  let w := s.w.toNat
  pix f s (srcRow s.flip s.h.toNat (p / w) * w + p % w)

/-- The bytes of the `n` raster pixels from `p` on, in raster order. -/
def rasterBytes (f : PixelFormat) (s : State) : Nat → Nat → Except Fault (List Byte)
  | 0, _ => .ok []
  | n + 1, p => do
    let q ← rasterPixel f s p
    let rest ← rasterBytes f s n (p + 1)
    .ok (q.bytes ++ rest)

/-- `fail(S)`: the raster is invalidated and the command ends with S (rules R180, R185). -/
def decodeFail (st : Status) (s : State) : Outcome := raise st s.invalidateRaster

/-- The loop of rule R180: all `3*W*H` raster bytes are computed and then written as one (rules R186, R187). -/
def decodeRaster (f : PixelFormat) (s : State) : Outcome :=
  onOk (rasterBytes f s (s.w.toNat * s.h.toNat) 0) fun bytes =>
    onOk (writeRaster s bytes) fun t => respond .ok 0 t.validateRaster

/-- DECODE of a frame of length `len` that has been taken from the reader: the checks in the order of rule
R250, then the raster (rules R180 to R184). -/
def decodeTaken (len : Nat) (s : State) : Outcome :=
  if s.modeValid = false then decodeFail .notConfigured s
  else
    match formatOfCode s.fmt with
    | none => decodeFail .unsupportedFormat s
    | some f =>
      if len ≠ frameSize s.w s.h then decodeFail .sizeMismatch s
      else if f = .yuv422 ∧ s.w.toNat % 2 = 1 then decodeFail .badConfig s
      else decodeRaster f s

/-- DECODE (rule R180): a frame that is found is consumed whatever comes of it (rule R189). -/
def execDecodeFrame (s : State) : Outcome :=
  if s.frameReady = false then raise .noFrame s
  else decodeTaken s.fbLen.toNat s.consumeFrame

/-- RD_PIXEL (rule R190). -/
def execRdPixel (p : Nat) (s : State) : Outcome :=
  if s.rasterValid = false then raise .noRaster s
  else if s.rastW.toNat * s.rastH.toNat ≤ p then raise .range s
  else onOk (readPixel s p) fun q => respond .ok (pixResult q) s

end Sys2Proof.Machine
end

