-- ==== Sys2Proof/Machine/Reader.lean ====
section
/-! DEFINITION. The Frame Reader: RX_BYTE and RX_END (rules R100 to R107). -/

namespace Sys2Proof.Machine

open Sys2Proof

/-- The count is advanced by one byte, or the frame is complete when that byte was the last one of
`W * H * 2` (rules R101, R102). -/
def countByte (s : State) : Outcome :=
  let e := frameSize s.w s.h
  if s.count.toNat + 1 = e then respond .frameDone 0 (s.completeFrame e)
  else respond .ok 0 { s with count := s.count + 1 }

/-- RX_BYTE (rule R101). -/
def execRxByte (b : Byte) (s : State) : Outcome :=
  if s.frameReady = true then raise .busy s
  else onOk (writeFb s s.count.toNat b) countByte

/-- RX_END (rule R103). -/
def execRxEnd (s : State) : Outcome :=
  if s.frameReady = true then raise .busy s
  else raise .incompleteFrame s.discardPartial

end Sys2Proof.Machine
end

