-- ==== Sys2Proof/Machine/Dispatch.lean ====
section
/-! DEFINITION. The meaning of every command, one arm per constructor of Instr. -/

namespace Sys2Proof.Machine

open Sys2Proof

/-- What a decoded command does (the "execute row.rule" of rule R75). -/
def exec (i : Instr) (s : State) : Host.Outcome State Fault Refusal :=
  match i with
  | .setGeom w h => Sys2Proof.Machine.execSetGeom w h s
  | .setMode fmt exp flip => Sys2Proof.Machine.execSetMode fmt exp flip s
  | .getCfg => Sys2Proof.Machine.execGetCfg s
  | .getStatus => Sys2Proof.Machine.execGetStatus s
  | .getFblen => Sys2Proof.Machine.execGetFblen s
  | .getRdim => Sys2Proof.Machine.execGetRdim s
  | .rxByte b => Sys2Proof.Machine.execRxByte b s
  | .rxEnd => Sys2Proof.Machine.execRxEnd s
  | .decodeFrame => Sys2Proof.Machine.execDecodeFrame s
  | .rdPixel p => Sys2Proof.Machine.execRdPixel p s
  | .fnClip8 x => Sys2Proof.Machine.execFnClip8 x s
  | .fnRshr8 x => Sys2Proof.Machine.execFnRshr8 x s
  | .fnYuv2rgb y u v => Sys2Proof.Machine.execFnYuv2rgb y u v s
  | .fn565s w => Sys2Proof.Machine.execFn565s w s
  | .fn565p w => Sys2Proof.Machine.execFn565p w s
  | .fnLuma y => Sys2Proof.Machine.execFnLuma y s
  | .fnYuyv2 y0 u y1 v => Sys2Proof.Machine.execFnYuyv2 y0 u y1 v s

end Sys2Proof.Machine
end

