-- ==== Sys2Proof/Machine/Control.lean ====
section
/-! DEFINITION. How the command processor takes one input: a command word is decoded and executed, a word that is no
command is answered ILLEGAL_CMD, and the reset input resets (rules R10, R75, R270). -/

namespace Sys2Proof.Machine

open Sys2Proof

/-- One command word, taken from the host (rules R10, R75): an ILLEGAL_CMD response changes no register and no
memory (rule R243). -/
def runWord (c : CmdWord) (s : State) : Outcome :=
  match decode c with
  | .ok i => exec i s
  | .error _ => raise .illegalCmd s

/-- One input, taken from the outside (rules R12, R270). -/
def runInput (x : Input) (s : State) : Outcome :=
  match x with
  | .command c => runWord c s
  | .reset => .next s.hardReset

/-- The next step: the block takes the next input, or, when none is presented, is idle and keeps all state
(rules R12, R259, R271). -/
def stepInputs (s : State) : Outcome :=
  match s.inputs with
  | [] => .next s
  | x :: rest => runInput x { s with inputs := rest }

/-- The state in which the word `w` of `nbits` bits is the next input; what was presented follows it. -/
def presentWord (s : State) (nbits w : Nat) : State :=
  { s with inputs := .command (BitVec.ofNat 64 (w % 2 ^ nbits)) :: s.inputs }

end Sys2Proof.Machine
end

