-- ==== Sys2Proof/Machine/Step.lean ====
section
/-! DEFINITION. One step of the machine, and how the host's next command word is placed. -/

namespace Sys2Proof.Machine

open Sys2Proof

/-- One step: one transaction of the command port (rule R10), or nothing when the host presents nothing. -/
def step (s : State) : Host.Outcome State Fault Refusal := stepInputs s

/-- `s` with a command word presented as the very next input (log entry 6). -/
def State.withFetchWord (s : State) (nbits w : Nat) : State := presentWord s nbits w

end Sys2Proof.Machine
end

