-- ==== Sys2Proof/Safety.lean ====
section
/-! DEFINITION. What a good state is: the invariants that the spec says hold in every reachable state (rules R26, R28,
R29, R30), and the bounds and the canonical form of the two memories. -/

namespace Sys2Proof.Machine

open Sys2Proof

/-- Every one of the first `n` bytes of a memory has been written. -/
def Written (m : Memory) (n : Nat) : Prop := ∀ i, i < n → (Memory.read m i).isSome = true

/-- Every byte a memory lists lies below the bound `n`. -/
def Below (m : Memory) (n : Nat) : Prop := ∀ c, c ∈ m → c.1 < n

/-- The invariant of the machine. -/
structure GoodState (s : State) : Prop where
  /-- W and H are a legal geometry (rule R30). -/
  geometry : 1 ≤ s.w.toNat ∧ 1 ≤ s.h.toNat ∧ frameSize s.w s.h ≤ Config.fbCapacity
  /-- While no frame is held, COUNT is below the frame size, and its bytes are written (rules R26, R38). -/
  counting : s.frameReady = false → s.count.toNat < frameSize s.w s.h ∧ Written s.fb s.count.toNat
  /-- While a frame is held, COUNT is 0 (rule R26). -/
  holding : s.frameReady = true → s.count = 0
  /-- A held frame has its length, within FB, and all its bytes (rule R28). -/
  frame : s.frameReady = true →
    1 ≤ s.fbLen.toNat ∧ s.fbLen.toNat ≤ Config.fbCapacity ∧ Written s.fb s.fbLen.toNat
  /-- Without a frame FB_LEN is 0 (rule R28). -/
  noFrame : s.frameReady = false → s.fbLen = 0
  /-- A valid raster has its dimensions, within RASTER, and all its bytes (rule R29). -/
  raster : s.rasterValid = true →
    1 ≤ s.rastW.toNat ∧ 1 ≤ s.rastH.toNat ∧ frameSize s.rastW s.rastH ≤ Config.fbCapacity ∧
      Written s.raster (3 * (s.rastW.toNat * s.rastH.toNat))
  /-- Without a raster RAST_W and RAST_H are 0 (rule R29). -/
  noRaster : s.rasterValid = false → s.rastW = 0 ∧ s.rastH = 0
  /-- FB is in canonical form and within FB_CAPACITY (rule R51). -/
  fbOk : Memory.wf s.fb = true ∧ Below s.fb Config.fbCapacity
  /-- RASTER is in canonical form and within the raster capacity (rule R52). -/
  rasterOk : Memory.wf s.raster = true ∧ Below s.raster Config.rasterCapacity

/-- A step that neither faults nor refuses. -/
def Completes (o : Outcome) : Prop := ∃ t, o = .next t

end Sys2Proof.Machine
end

