-- ==== Sys2Proof/Certificates/Slice0/Reference.lean ====
section
/-! DEFINITION. What the statements compare the model with: the opcode table's rows, the pixel formulas and the encoder
of the spec, written out again from its rules and not from the model's own definitions. -/

namespace Sys2Proof.Reference

open Sys2Proof Sys2Proof.Machine

/-- The match and mask columns of the opcode map (rule R74), for the row a command belongs to. -/
def row : Instr → CmdWord × CmdWord
  | .setGeom _ _ => (0x0100000000000000, 0xFFFFFFFF00000000)
  | .setMode _ _ _ => (0x0200000000000000, 0xFFFFFFFFFFFFFFF0)
  | .getCfg => (0x0300000000000000, 0xFFFFFFFFFFFFFFFF)
  | .getStatus => (0x0400000000000000, 0xFFFFFFFFFFFFFFFF)
  | .getFblen => (0x0500000000000000, 0xFFFFFFFFFFFFFFFF)
  | .getRdim => (0x0600000000000000, 0xFFFFFFFFFFFFFFFF)
  | .rxByte _ => (0x1000000000000000, 0xFFFFFFFFFFFFFF00)
  | .rxEnd => (0x1100000000000000, 0xFFFFFFFFFFFFFFFF)
  | .decodeFrame => (0x2000000000000000, 0xFFFFFFFFFFFFFFFF)
  | .rdPixel _ => (0x2100000000000000, 0xFFFFFFFF00000000)
  | .fnClip8 _ => (0x3000000000000000, 0xFFFFFFFF00000000)
  | .fnRshr8 _ => (0x3100000000000000, 0xFFFFFFFF00000000)
  | .fnYuv2rgb _ _ _ => (0x3200000000000000, 0xFFFFFFFFFF000000)
  | .fn565s _ => (0x3300000000000000, 0xFFFFFFFFFFFF0000)
  | .fn565p _ => (0x3400000000000000, 0xFFFFFFFFFFFF0000)
  | .fnLuma _ => (0x3500000000000000, 0xFFFFFFFFFFFFFF00)
  | .fnYuyv2 _ _ _ _ => (0x3600000000000000, 0xFFFFFFFF00000000)

/-- The statuses a command can return once it is decoded (the table of 60_exceptions.md, section 1). -/
def statuses : Instr → List Status
  | .setGeom _ _ => [.ok, .badConfig]
  | .setMode _ _ _ => [.ok]
  | .getCfg => [.ok]
  | .getStatus => [.ok]
  | .getFblen => [.ok]
  | .getRdim => [.ok]
  | .rxByte _ => [.ok, .frameDone, .busy]
  | .rxEnd => [.incompleteFrame, .busy]
  | .decodeFrame => [.ok, .noFrame, .notConfigured, .unsupportedFormat, .sizeMismatch, .badConfig]
  | .rdPixel _ => [.ok, .noRaster, .range]
  | .fnClip8 _ => [.ok]
  | .fnRshr8 _ => [.ok]
  | .fnYuv2rgb _ _ _ => [.ok]
  | .fn565s _ => [.ok]
  | .fn565p _ => [.ok]
  | .fnLuma _ => [.ok]
  | .fnYuyv2 _ _ _ _ => [.ok]

/-- Saturation to 0..255 (rule R140). -/
def sat (x : Int) : Int := max 0 (min 255 x)

/-- The three channels R, G, B of a pixel as integers. -/
structure Channels where
  r : Int
  g : Int
  b : Int
  deriving DecidableEq, Repr

/-- RGB565 under shift expansion, from the number of the sample (rules R120, R121). -/
def shift565 (n : Nat) : Channels := ⟨8 * (n / 2048 : Nat), 4 * (n / 32 % 64 : Nat), 8 * (n % 32 : Nat)⟩

/-- RGB565 under proportional expansion, from the number of the sample (rules R120, R122). -/
def prop565 (n : Nat) : Channels :=
  ⟨(n / 2048 * 255 / 31 : Nat), (n / 32 % 64 * 255 / 63 : Nat), (n % 32 * 255 / 31 : Nat)⟩

/-- The BT.601 conversion of a triple Y, U, V (rules R143 to R145). -/
def bt601 (y u v : Int) : Channels :=
  ⟨sat ((298 * (y - 16) + 409 * (v - 128) + 128) / 256),
   sat ((298 * (y - 16) - 100 * (u - 128) - 208 * (v - 128) + 128) / 256),
   sat ((298 * (y - 16) + 516 * (u - 128) + 128) / 256)⟩

/-- Pixel `i`, in stream order, of a frame whose byte `k` is `d k` (rules R124, R151, R171, R188). -/
def pixel (fmt : BitVec 2) (exp : Bool) (d : Nat → Byte) (i : Nat) : Channels :=
  let sample := (d (2 * i)).toNat + 256 * (d (2 * i + 1)).toNat
  let y := (d (2 * i)).toNat
  if fmt = 0 then (if exp = true then prop565 sample else shift565 sample)
  else if fmt = 1 then bt601 y (d (4 * (i / 2) + 1)).toNat (d (4 * (i / 2) + 3)).toNat
  else ⟨y, y, y⟩

/-- The stream-order pixel that raster row `r`, column `c` shows (rule R187). -/
def source (flip : Bool) (w h r c : Nat) : Nat := (if flip = true then h - 1 - r else r) * w + c

/-- The FB bytes that the per-pixel function of a format reads for stream-order pixel `i` (rules R124, R151, R171). -/
def pixelReads (fmt : BitVec 2) (i k : Nat) : Prop :=
  fmt = 0 ∧ (k = 2 * i ∨ k = 2 * i + 1) ∨
    fmt = 1 ∧ (k = 2 * i ∨ k = 4 * (i / 2) + 1 ∨ k = 4 * (i / 2) + 3) ∨
    fmt = 2 ∧ k = 2 * i

/-- The FB bytes that the raster loop of DECODE reads (rules R180, R187). -/
def decodeReads (s : State) (k : Nat) : Prop :=
  ∃ r c, r < s.h.toNat ∧ c < s.w.toNat ∧ pixelReads s.fmt (source s.flip s.w.toNat s.h.toNat r c) k

/-- No check of DECODE fails (rules R180 to R184). -/
def checksPass (s : State) : Prop :=
  s.frameReady = true ∧ s.modeValid = true ∧ s.fmt ≠ 3 ∧ s.fbLen.toNat = s.w.toNat * s.h.toNat * 2 ∧
    (s.fmt = 1 → s.w.toNat % 2 = 0)

/-- A RESULT holds a pixel in the PIX layout: R in bits 23:16, G in 15:8, B in 7:0, 0 elsewhere (rule R72). -/
def holdsPixel (v : ResultWord) (q : Channels) : Prop :=
  (v.toNat : Int) = 65536 * q.r + 256 * q.g + q.b

/-- The reference encoder of an 8-bit channel to `n` bits, round to nearest with saturation (41_rgb565.md,
section 3). -/
def encodeRound (n v : Nat) : Nat := min (2 ^ n - 1) ((v + 2 ^ (7 - n)) / 2 ^ (8 - n))

/-- The truncating encoder of an 8-bit channel to `n` bits (41_rgb565.md, section 3). -/
def encodeTrunc (n v : Nat) : Nat := v / 2 ^ (8 - n)

/-- The host presents these bytes, one RX_BYTE each (rules R71, R74, R100). -/
def rxInputs (bs : List Byte) : List Input := bs.map fun b => .command (0x10#8 ++ 0#48 ++ b : BitVec 64)

/-- Everything but the response list is as it was. -/
def onlyAnswers (s t : State) : Prop := t = { s with responses := t.responses }

end Sys2Proof.Reference
end

