-- ==== Sys2Proof/Certificates/Slice0/Obligations.lean ====
section
/-! DEFINITION. The statements for the provers. An equation `exec i s = .next t` with `t` written out says the whole
frame: what `t` does not name is as in `s`. -/

open Sys2Proof Sys2Proof.Machine Sys2Proof.Reference

/-! ### Encoding -/

/-- The worked encodings of 30_encoding.md section 6 (which derives them from its own table) decode to the commands
written beside them, and those commands encode to them. -/
def Obligations.WorkedEncodingsDecodeAndEncode : Prop :=
  ∀ c i,
    (c, i) ∈ ([(0x01000000014000F0, .setGeom 320 240), (0x0200000000000001, .setMode 1 false false),
      (0x020000000000000C, .setMode 0 true true), (0x10000000000000EB, .rxByte 0xEB),
      (0x1100000000000000, .rxEnd), (0x2000000000000000, .decodeFrame), (0x2100000000000005, .rdPixel 5),
      (0x30000000FFFFFFFF, .fnClip8 (-1)), (0x3200000000EB8080, .fnYuv2rgb 235 128 128),
      (0x330000000000F800, .fn565s 0xF800), (0x36000000801080EB, .fnYuyv2 235 128 16 128)]
      : List (CmdWord × Instr)) →
    decode c = .ok i ∧ encode i = c

/-- Decoding the word of a well-formed command gives that command, whatever its operands. -/
def Obligations.DecodeOfEncodeIsTheCommand : Prop :=
  ∀ i, WellFormed i = true → decode (encode i) = .ok i

/-- A word that decodes has a well-formed command, and is the word of that command: no bit is ignored. -/
def Obligations.EncodeOfDecodeIsTheWord : Prop :=
  ∀ c i, decode c = .ok i → WellFormed i = true ∧ encode i = c

/-- A word decodes to a command of a row exactly when it selects that row by the match and mask columns of the opcode
map. -/
def Obligations.DecodeSelectsTheTableRow : Prop :=
  ∀ c j, (c &&& (row j).2 = (row j).1) ↔ ∃ i, decode c = .ok i ∧ row i = row j

/-- A word with an unassigned opcode, with RSV not 0, or of a legal opcode with a reserved bit of A set, gets
ILLEGAL_CMD (R76); the all-zero word is one of them. -/
def Obligations.ReservedWordsAreIllegal : Prop :=
  ∀ (s : State) c rest, s.inputs = .command c :: rest →
    (((c.extractLsb' 56 8).toNat = 0x00 ∨
        (0x07 ≤ (c.extractLsb' 56 8).toNat ∧ (c.extractLsb' 56 8).toNat ≤ 0x0F) ∨
        (0x12 ≤ (c.extractLsb' 56 8).toNat ∧ (c.extractLsb' 56 8).toNat ≤ 0x1F) ∨
        (0x22 ≤ (c.extractLsb' 56 8).toNat ∧ (c.extractLsb' 56 8).toNat ≤ 0x2F) ∨
        0x37 ≤ (c.extractLsb' 56 8).toNat) ∨
      c.extractLsb' 32 24 ≠ 0 ∨
      ∃ j, c.extractLsb' 56 8 = (row j).1.extractLsb' 56 8 ∧ c &&& (row j).2 ≠ (row j).1) →
    step s = .next { s with inputs := rest, responses := ⟨.illegalCmd, 0⟩ :: s.responses }

/-- Whatever the opcode field holds, a word that selects no row changes nothing but the responses (R243). -/
def Obligations.IllegalCommandChangesNoState : Prop :=
  ∀ (s : State) c rest, s.inputs = .command c :: rest → (∀ j, c &&& (row j).2 ≠ (row j).1) →
    step s = .next { s with inputs := rest, responses := ⟨.illegalCmd, 0⟩ :: s.responses }

/-! ### Steps -/

/-- A step runs the command that the next word decodes to, on the state from which that word has been taken. -/
def Obligations.StepRunsTheDecodedCommand : Prop :=
  ∀ (s : State) c rest i, s.inputs = .command c :: rest → decode c = .ok i → WellFormed i = true →
    step s = exec i { s with inputs := rest }

/-- A well-formed command that is presented as the next word is the next thing the machine does. -/
def Obligations.PresentedCommandRunsNext : Prop :=
  ∀ (s : State) i, WellFormed i = true → step (s.withFetchWord 64 (encode i).toNat) = exec i s

/-- With nothing presented the block is idle and keeps all state (60_exceptions.md section 4; that the host's
pending inputs are a list of the state is the model's choice, log entry 1). -/
def Obligations.IdleStepKeepsAllState : Prop :=
  ∀ s : State, s.inputs = [] → step s = .next s

/-- The reset input puts every register at its reset value. That the memories then list no byte, and that the inputs and
responses stay, is the model's choice (log entries 3 and 7). -/
def Obligations.ResetInputSetsResetValues : Prop :=
  ∀ (s : State) rest, s.inputs = .reset :: rest →
    step s = .next
      { w := 320, h := 240, fmt := 0, exp := false, flip := false, modeValid := false, count := 0,
        frameReady := false, fbLen := 0, rasterValid := false, rastW := 0, rastH := 0, fb := [],
        raster := [], inputs := rest, responses := s.responses }

/-- A step that takes a command word takes that word alone and returns exactly one response, whose status is one
the command may return (ILLEGAL_CMD where there is none) and whose RESULT is 0 unless the status is OK or
FRAME_DONE. -/
def Obligations.EveryCommandReturnsOneResponse : Prop :=
  ∀ (s t : State) c rest, s.inputs = .command c :: rest → step s = .next t →
    t.inputs = rest ∧ ∃ r, t.responses = r :: s.responses ∧
      (r.status ≠ .ok → r.status ≠ .frameDone → r.result = 0) ∧
      ((∃ e, decode c = .error e) ∧ r.status = .illegalCmd ∨
        ∃ i, decode c = .ok i ∧ r.status ∈ statuses i)

/-- The status codes are the numbers of R240, no two alike, and 12 to 15 are never produced. -/
def Obligations.StatusCodesAreNumbered : Prop :=
  (Status.ok.code = 0 ∧ Status.frameDone.code = 1 ∧ Status.incompleteFrame.code = 2 ∧
    Status.sizeMismatch.code = 3 ∧ Status.unsupportedFormat.code = 4 ∧ Status.notConfigured.code = 5 ∧
    Status.noFrame.code = 6 ∧ Status.busy.code = 7 ∧ Status.badConfig.code = 8 ∧ Status.noRaster.code = 9 ∧
    Status.range.code = 10 ∧ Status.illegalCmd.code = 11) ∧
  ∀ a b : Status, a.code.toNat < 12 ∧ (a.code = b.code → a = b)

/-! ### Configuration and status -/

/-- SET_GEOM (R211): a legal geometry is stored and clears COUNT, an illegal one changes nothing; 65535 by 65535
is always illegal. -/
def Obligations.SetGeomStoresOrRefusesWhole : Prop :=
  (∀ w h : BitVec 16, decode (0x01#8 ++ 0#24 ++ w ++ h : BitVec 64) = .ok (.setGeom w h)) ∧
  ∀ (s : State) w h,
    (w.toNat ≠ 0 → h.toNat ≠ 0 → w.toNat * h.toNat * 2 ≤ Config.fbCapacity →
      exec (.setGeom w h) s =
        .next { s with w := w, h := h, count := 0, responses := ⟨.ok, 0⟩ :: s.responses }) ∧
    (w.toNat = 0 ∨ h.toNat = 0 ∨ Config.fbCapacity < w.toNat * h.toNat * 2 →
      exec (.setGeom w h) s = .next { s with responses := ⟨.badConfig, 0⟩ :: s.responses }) ∧
    exec (.setGeom 65535 65535) s = .next { s with responses := ⟨.badConfig, 0⟩ :: s.responses }

/-- SET_GEOM 320, 240 is legal for every FB_CAPACITY, and SET_GEOM 321, 240 exactly from 154080 on
(95_test_vectors.md section 2.2). -/
def Obligations.GeometryAcceptanceFollowsCapacity : Prop :=
  ∀ s : State, exec (.setGeom 320 240) s =
      .next { s with w := 320, h := 240, count := 0, responses := ⟨.ok, 0⟩ :: s.responses } ∧
    (exec (.setGeom 321 240) s =
        .next { s with w := 321, h := 240, count := 0, responses := ⟨.ok, 0⟩ :: s.responses } ↔
      154080 ≤ Config.fbCapacity)

/-- SET_MODE (R213): all three fields are stored as they are, 3 too, and MODE_VALID is set. -/
def Obligations.SetModeStoresAllFields : Prop :=
  (∀ (fmt : BitVec 2) (exp flip : Bool),
    decode (0x02#8 ++ 0#24 ++ 0#28 ++ BitVec.ofBool flip ++ BitVec.ofBool exp ++ fmt : BitVec 64) =
      .ok (.setMode fmt exp flip)) ∧
  ∀ (s : State) fmt exp flip, exec (.setMode fmt exp flip) s =
    .next { s with fmt := fmt, exp := exp, flip := flip, modeValid := true,
                   responses := ⟨.ok, 0⟩ :: s.responses }

/-- GET_CFG (R215): H in bits 15:0, W in 31:16, FMT in 33:32, EXP in 34, FLIP in 35, 0 above; no state changes. -/
def Obligations.GetCfgReadsConfiguration : Prop :=
  decode 0x0300000000000000 = .ok .getCfg ∧
  ∀ s : State, ∃ v : ResultWord, exec .getCfg s = .next { s with responses := ⟨.ok, v⟩ :: s.responses } ∧
    v.extractLsb' 0 16 = s.h ∧ v.extractLsb' 16 16 = s.w ∧ v.extractLsb' 32 2 = s.fmt ∧
    v.getLsbD 34 = s.exp ∧ v.getLsbD 35 = s.flip ∧ v.extractLsb' 36 28 = 0

/-- GET_STATUS (R216): FRAME_READY, RASTER_VALID and MODE_VALID in bits 0, 1, 2, then 0, COUNT in 63:32; no state
changes. -/
def Obligations.GetStatusReadsFlagsAndCount : Prop :=
  decode 0x0400000000000000 = .ok .getStatus ∧
  ∀ s : State, ∃ v : ResultWord, exec .getStatus s = .next { s with responses := ⟨.ok, v⟩ :: s.responses } ∧
    v.getLsbD 0 = s.frameReady ∧ v.getLsbD 1 = s.rasterValid ∧ v.getLsbD 2 = s.modeValid ∧
    v.extractLsb' 3 29 = 0 ∧ v.extractLsb' 32 32 = s.count ∧
    (GoodState s → s.frameReady = true → v.extractLsb' 32 32 = 0)

/-- GET_FBLEN (R217): FB_LEN zero-extended; no state changes. -/
def Obligations.GetFblenReadsFrameLength : Prop :=
  decode 0x0500000000000000 = .ok .getFblen ∧
  ∀ s : State, ∃ v : ResultWord, exec .getFblen s = .next { s with responses := ⟨.ok, v⟩ :: s.responses } ∧
    v.toNat = s.fbLen.toNat ∧ (GoodState s → s.frameReady = false → v = 0)

/-- GET_RDIM (R218): RAST_W in bits 31:16, RAST_H in 15:0, 0 above; no state changes. -/
def Obligations.GetRdimReadsRasterDimensions : Prop :=
  decode 0x0600000000000000 = .ok .getRdim ∧
  ∀ s : State, ∃ v : ResultWord, exec .getRdim s = .next { s with responses := ⟨.ok, v⟩ :: s.responses } ∧
    v.toNat = s.rastW.toNat * 65536 + s.rastH.toNat ∧ (GoodState s → s.rasterValid = false → v = 0)

/-- After a SET_GEOM that is accepted and a SET_MODE, GET_CFG reads the five values back exactly. -/
def Obligations.ConfigurationReadsBackAsWritten : Prop :=
  ∀ (s t u : State) w h fmt exp flip, exec (.setGeom w h) s = .next t → t.responses = ⟨.ok, 0⟩ :: s.responses →
    exec (.setMode fmt exp flip) t = .next u →
    ∃ v : ResultWord, exec .getCfg u = .next { u with responses := ⟨.ok, v⟩ :: u.responses } ∧
      v = (0#28 ++ BitVec.ofBool flip ++ BitVec.ofBool exp ++ fmt ++ w ++ h : BitVec 64)

/-! ### The frame reader -/

/-- RX_BYTE (R101): BUSY while a frame is held; else FB[COUNT] takes the byte, every other byte of FB stays, and the
byte that makes `W * H * 2` completes the frame. -/
def Obligations.RxByteStoresAndCounts : Prop :=
  (∀ b : Byte, decode (0x10#8 ++ 0#48 ++ b : BitVec 64) = .ok (.rxByte b)) ∧
  (∀ (s : State) b, s.frameReady = true →
    exec (.rxByte b) s = .next { s with responses := ⟨.busy, 0⟩ :: s.responses }) ∧
  ∀ (s : State) b, s.frameReady = false → s.count.toNat < Config.fbCapacity →
    ∃ fb : Memory, Memory.read fb s.count.toNat = some b ∧
      (∀ i, i ≠ s.count.toNat → Memory.read fb i = Memory.read s.fb i) ∧
      (s.count.toNat + 1 = s.w.toNat * s.h.toNat * 2 →
        exec (.rxByte b) s =
          .next { s with fb := fb, frameReady := true, fbLen := BitVec.ofNat 32 (s.count.toNat + 1),
                         count := 0, responses := ⟨.frameDone, 0⟩ :: s.responses }) ∧
      (s.count.toNat + 1 ≠ s.w.toNat * s.h.toNat * 2 →
        exec (.rxByte b) s =
          .next { s with fb := fb, count := BitVec.ofNat 32 (s.count.toNat + 1),
                         responses := ⟨.ok, 0⟩ :: s.responses })

/-- RX_END (R103): BUSY while a frame is held; else INCOMPLETE_FRAME, whatever COUNT is, and COUNT is cleared. -/
def Obligations.RxEndDiscardsPartialFrame : Prop :=
  decode 0x1100000000000000 = .ok .rxEnd ∧
  ∀ s : State, (s.frameReady = true → exec .rxEnd s = .next { s with responses := ⟨.busy, 0⟩ :: s.responses }) ∧
    (s.frameReady = false →
      exec .rxEnd s = .next { s with count := 0, responses := ⟨.incompleteFrame, 0⟩ :: s.responses })

/-- A whole frame's bytes, presented one RX_BYTE each from COUNT = 0, become the held frame: every byte in its place,
FRAME_DONE for the last one, OK for all before it. -/
def Obligations.WholeFrameIsAssembled : Prop :=
  ∀ (s : State) (bs : List Byte) rest, GoodState s → s.frameReady = false → s.count = 0 →
    bs.length = s.w.toNat * s.h.toNat * 2 →
    ∃ fb : Memory, (∀ i b, bs[i]? = some b → Memory.read fb i = some b) ∧
      (∀ i, bs.length ≤ i → Memory.read fb i = Memory.read s.fb i) ∧
      core.run bs.length ({ s with inputs := rxInputs bs ++ rest } : State) =
        .next { s with fb := fb, frameReady := true, fbLen := BitVec.ofNat 32 bs.length, inputs := rest,
                       responses := ⟨.frameDone, 0⟩ ::
                         (List.replicate (bs.length - 1) ⟨.ok, 0⟩ ++ s.responses) }

/-- A stream that ends before the frame is whole gives INCOMPLETE_FRAME, never a short buffer: no frame is held, and a
DECODE finds none. The bytes stand in FB in their places, and every other byte of FB is as before. -/
def Obligations.ShortStreamIsReportedIncomplete : Prop :=
  ∀ (s : State) (bs : List Byte) rest, GoodState s → s.frameReady = false → s.count = 0 →
    bs.length < s.w.toNat * s.h.toNat * 2 →
    ∃ fb : Memory, (∀ i b, bs[i]? = some b → Memory.read fb i = some b) ∧
      (∀ i, bs.length ≤ i → Memory.read fb i = Memory.read s.fb i) ∧
      core.run (bs.length + 2)
          ({ s with inputs := rxInputs bs ++
              .command 0x1100000000000000 :: .command 0x2000000000000000 :: rest } : State) =
        .next { s with fb := fb, inputs := rest,
                       responses := ⟨.noFrame, 0⟩ :: ⟨.incompleteFrame, 0⟩ ::
                         (List.replicate bs.length ⟨.ok, 0⟩ ++ s.responses) }

/-- The reader never looks at a byte's value: two bytes leave the same state but for the byte stored. -/
def Obligations.ReaderIgnoresByteValues : Prop :=
  ∀ (s t : State) a b, exec (.rxByte a) s = .next t →
    ∃ fb : Memory, exec (.rxByte b) s = .next { t with fb := fb } ∧
      ∀ i, i ≠ s.count.toNat → Memory.read fb i = Memory.read t.fb i

/-! ### DECODE and RD_PIXEL -/

/-- DECODE's failures, in the order they are checked: NO_FRAME, which changes nothing, then NOT_CONFIGURED (R181),
UNSUPPORTED_FORMAT (R182), SIZE_MISMATCH and BAD_CONFIG (R184), each of which consumes the frame, invalidates the
raster and writes no RASTER byte. -/
def Obligations.DecodeFailsWithFirstCheck : Prop :=
  decode 0x2000000000000000 = .ok .decodeFrame ∧
  ∀ s : State,
    (s.frameReady = false →
      exec .decodeFrame s = .next { s with responses := ⟨.noFrame, 0⟩ :: s.responses }) ∧
    ∀ st,
      (s.frameReady = true ∧ s.modeValid = false ∧ st = .notConfigured ∨
        s.frameReady = true ∧ s.modeValid = true ∧ s.fmt = 3 ∧ st = .unsupportedFormat ∨
        s.frameReady = true ∧ s.modeValid = true ∧ s.fmt ≠ 3 ∧
          s.fbLen.toNat ≠ s.w.toNat * s.h.toNat * 2 ∧ st = .sizeMismatch ∨
        s.frameReady = true ∧ s.modeValid = true ∧ s.fmt = 1 ∧
          s.fbLen.toNat = s.w.toNat * s.h.toNat * 2 ∧ s.w.toNat % 2 = 1 ∧ st = .badConfig) →
      exec .decodeFrame s =
        .next { s with frameReady := false, fbLen := 0, rasterValid := false, rastW := 0, rastH := 0,
                       responses := ⟨st, 0⟩ :: s.responses }

/-- A DECODE whose premises hold writes the raster: pixel (r, c) is the per-pixel function of the format at its
source pixel, R, G, B at bytes 3p, 3p+1, 3p+2; no byte past the raster changes, and nothing else but the frame,
the raster's registers and the responses. -/
def Obligations.DecodeWritesTheRaster : Prop :=
  ∀ (s : State) (d : Nat → Byte), s.frameReady = true → s.modeValid = true → s.fmt ≠ 3 →
    s.fbLen.toNat = s.w.toNat * s.h.toNat * 2 → s.fbLen.toNat ≤ Config.fbCapacity →
    (s.fmt = 1 → s.w.toNat % 2 = 0) →
    (∀ i, i < s.fbLen.toNat → Memory.read s.fb i = some (d i)) →
    ∃ raster : Memory,
      exec .decodeFrame s =
        .next { s with frameReady := false, fbLen := 0, rasterValid := true, rastW := s.w, rastH := s.h,
                       raster := raster, responses := ⟨.ok, 0⟩ :: s.responses } ∧
      (∀ r c, r < s.h.toNat → c < s.w.toNat →
        ∃ q : Rgb,
          (⟨q.r.toNat, q.g.toNat, q.b.toNat⟩ : Channels) =
            pixel s.fmt s.exp d (source s.flip s.w.toNat s.h.toNat r c) ∧
          Memory.read raster (3 * (r * s.w.toNat + c)) = some q.r ∧
          Memory.read raster (3 * (r * s.w.toNat + c) + 1) = some q.g ∧
          Memory.read raster (3 * (r * s.w.toNat + c) + 2) = some q.b) ∧
      ∀ i, 3 * (s.w.toNat * s.h.toNat) ≤ i → Memory.read raster i = Memory.read s.raster i

/-- Every DECODE that finds a frame consumes it, success or failure: FRAME_READY = 0 and FB_LEN = 0 afterwards, and the
reader no longer answers BUSY (R189). -/
def Obligations.DecodeConsumesItsFrame : Prop :=
  ∀ s t : State, s.frameReady = true → exec .decodeFrame s = .next t →
    t.frameReady = false ∧ t.fbLen = 0 ∧
    (∀ b u, exec (.rxByte b) t = .next u → u.responses ≠ ⟨.busy, 0⟩ :: t.responses) ∧
    ∃ u, exec .rxEnd t = .next u ∧ u.responses = ⟨.incompleteFrame, 0⟩ :: t.responses

/-- A DECODE that fails after finding a frame sets RASTER_VALID, RAST_W and RAST_H to 0 and writes no RASTER byte, and
RD_PIXEL then gives NO_RASTER for every index (R185). -/
def Obligations.FailedDecodeLeavesNoRaster : Prop :=
  ∀ s t : State, s.frameReady = true → exec .decodeFrame s = .next t → t.responses ≠ ⟨.ok, 0⟩ :: s.responses →
    t.rasterValid = false ∧ t.rastW = 0 ∧ t.rastH = 0 ∧ t.raster = s.raster ∧
    ∀ p, exec (.rdPixel p) t = .next { t with responses := ⟨.noRaster, 0⟩ :: t.responses }

/-- From a good state in which DECODE's premises hold, DECODE returns OK, and then RD_PIXEL returns OK for every pixel
of the frame, with the channels the pixel formulas give for the frame's bytes, and RANGE for every other index. -/
def Obligations.DecodedFrameReadsBack : Prop :=
  ∀ (s : State) (d : Nat → Byte), GoodState s → s.frameReady = true → s.modeValid = true → s.fmt ≠ 3 →
    s.fbLen.toNat = s.w.toNat * s.h.toNat * 2 → (s.fmt = 1 → s.w.toNat % 2 = 0) →
    (∀ i, i < s.fbLen.toNat → Memory.read s.fb i = some (d i)) →
    ∃ t, exec .decodeFrame s = .next t ∧ t.responses = ⟨.ok, 0⟩ :: s.responses ∧
      (∀ r c, r < s.h.toNat → c < s.w.toNat →
        ∃ v, exec (.rdPixel (r * s.w.toNat + c)) t =
            .next { t with responses := ⟨.ok, v⟩ :: t.responses } ∧
          holdsPixel v (pixel s.fmt s.exp d (source s.flip s.w.toNat s.h.toNat r c))) ∧
      ∀ p, s.w.toNat * s.h.toNat ≤ p →
        exec (.rdPixel p) t = .next { t with responses := ⟨.range, 0⟩ :: t.responses }

/-- What a DECODE returns, and every byte of the raster it writes, depend on the frame's bytes and the configuration
alone: nothing of an earlier frame or raster comes in. -/
def Obligations.RasterDependsOnFrameAndConfigOnly : Prop :=
  ∀ s s' t t' : State, s.w = s'.w → s.h = s'.h → s.fmt = s'.fmt → s.exp = s'.exp → s.flip = s'.flip →
    s.modeValid = s'.modeValid → s.frameReady = s'.frameReady → s.fbLen = s'.fbLen →
    (∀ i, i < s.fbLen.toNat → Memory.read s.fb i = Memory.read s'.fb i) →
    exec .decodeFrame s = .next t → exec .decodeFrame s' = .next t' →
    t.responses.head? = t'.responses.head? ∧
    (t.responses.head? = some ⟨.ok, 0⟩ →
      ∀ i, i < 3 * (s.w.toNat * s.h.toNat) → Memory.read t.raster i = Memory.read t'.raster i)

/-- Decoding with FLIP set gives the rows of the raster decoded without it, in reversed order, for every format. -/
def Obligations.FlipReversesTheRows : Prop :=
  ∀ s t t' : State, exec .decodeFrame { s with flip := false } = .next t →
    exec .decodeFrame { s with flip := true } = .next t' →
    t.responses = ⟨.ok, 0⟩ :: s.responses →
    t'.responses = ⟨.ok, 0⟩ :: s.responses ∧
    ∀ r c k, r < s.h.toNat → c < s.w.toNat → k < 3 →
      Memory.read t'.raster (3 * (r * s.w.toNat + c) + k) =
        Memory.read t.raster (3 * ((s.h.toNat - 1 - r) * s.w.toNat + c) + k)

/-- A frame whose every 16-bit word is 0xF800 decodes under shift expansion to (248, 0, 0) in every pixel, for either
row order; a YUYV frame of all (235, 128, 128) decodes to (255, 255, 255). -/
def Obligations.UniformFramesDecodeUniformly : Prop :=
  ∀ s t : State, exec .decodeFrame s = .next t → t.responses = ⟨.ok, 0⟩ :: s.responses →
    (s.fmt = 0 → s.exp = false →
      (∀ n, 2 * n < s.fbLen.toNat →
        Memory.read s.fb (2 * n) = some 0x00 ∧ Memory.read s.fb (2 * n + 1) = some 0xF8) →
      ∀ p, p < s.w.toNat * s.h.toNat → readPixel t p = .ok ⟨248, 0, 0⟩) ∧
    (s.fmt = 1 →
      (∀ n, 2 * n < s.fbLen.toNat →
        Memory.read s.fb (2 * n) = some 235 ∧ Memory.read s.fb (2 * n + 1) = some 128) →
      ∀ p, p < s.w.toNat * s.h.toNat → readPixel t p = .ok ⟨255, 255, 255⟩)

/-- A complete frame that SET_GEOM finds held is kept, and the next DECODE under a mode with a decoder returns
SIZE_MISMATCH exactly when the new `W * H * 2` differs from its length. -/
def Obligations.GeometryChangeDecidesSizeMismatch : Prop :=
  ∀ (s t u : State) w h, exec (.setGeom w h) s = .next t → t.responses = ⟨.ok, 0⟩ :: s.responses →
    s.frameReady = true → s.modeValid = true → s.fmt ≠ 3 → exec .decodeFrame t = .next u →
    t.frameReady = true ∧ t.fbLen = s.fbLen ∧
    (u.responses = ⟨.sizeMismatch, 0⟩ :: t.responses ↔ w.toNat * h.toNat * 2 ≠ s.fbLen.toNat)

/-- RD_PIXEL (R190): NO_RASTER, then RANGE, against the raster's own dimensions; else the three bytes of pixel p in
the PIX layout; it changes nothing. -/
def Obligations.RdPixelReadsThePixel : Prop :=
  (∀ p : BitVec 32, decode (0x21#8 ++ 0#24 ++ p : BitVec 64) = .ok (.rdPixel p.toNat)) ∧
  ∀ (s : State) p,
    (s.rasterValid = false →
      exec (.rdPixel p) s = .next { s with responses := ⟨.noRaster, 0⟩ :: s.responses }) ∧
    (s.rasterValid = true → s.rastW.toNat * s.rastH.toNat ≤ p →
      exec (.rdPixel p) s = .next { s with responses := ⟨.range, 0⟩ :: s.responses }) ∧
    ∀ r g b : Byte, s.rasterValid = true → p < s.rastW.toNat * s.rastH.toNat →
      3 * p + 2 < Config.rasterCapacity →
      Memory.read s.raster (3 * p) = some r → Memory.read s.raster (3 * p + 1) = some g →
      Memory.read s.raster (3 * p + 2) = some b →
      exec (.rdPixel p) s =
        .next { s with responses := ⟨.ok, (0#40 ++ r ++ g ++ b : BitVec 64)⟩ :: s.responses }

/-- Receiving bytes of the next frame, ending it or changing the configuration leaves every answer of RD_PIXEL as it
was. -/
def Obligations.RasterOutlivesTheNextFrame : Prop :=
  ∀ (s t : State) i p st v, i ≠ .decodeFrame → exec i s = .next t →
    exec (.rdPixel p) s = .next { s with responses := ⟨st, v⟩ :: s.responses } →
    exec (.rdPixel p) t = .next { t with responses := ⟨st, v⟩ :: t.responses }

/-! ### The pure commands -/

/-- FN_CLIP8 (R155): the operand is the signed A, the result `max(0, min(255, x))`; no state changes. -/
def Obligations.FnClip8Saturates : Prop :=
  (∀ a : BitVec 32, decode (0x30#8 ++ 0#24 ++ a : BitVec 64) = .ok (.fnClip8 a.toInt)) ∧
  ∀ (s : State) x, ∃ v : ResultWord, exec (.fnClip8 x) s = .next { s with responses := ⟨.ok, v⟩ :: s.responses } ∧
    (v.toNat : Int) = max 0 (min 255 x)

/-- FN_RSHR8 (R156): the sum is exact and the shift rounds down, so that `256 q <= x + 128 < 256 q + 256` for the
signed RESULT q, which lies in -8388608 .. 8388608; no state changes. -/
def Obligations.FnRshr8RoundsDown : Prop :=
  (∀ a : BitVec 32, decode (0x31#8 ++ 0#24 ++ a : BitVec 64) = .ok (.fnRshr8 a.toInt)) ∧
  ∀ (s : State) x, -2147483648 ≤ x → x ≤ 2147483647 →
    ∃ v : ResultWord, exec (.fnRshr8 x) s = .next { s with responses := ⟨.ok, v⟩ :: s.responses } ∧
      256 * v.toInt ≤ x + 128 ∧ x + 128 < 256 * v.toInt + 256 ∧
      -8388608 ≤ v.toInt ∧ v.toInt ≤ 8388608

/-- FN_YUV2RGB (R157): the BT.601 conversion of the three bytes, in the PIX layout; no state changes. -/
def Obligations.FnYuv2rgbConverts : Prop :=
  (∀ y u v : Byte, decode (0x32#8 ++ 0#24 ++ 0#8 ++ y ++ u ++ v : BitVec 64) = .ok (.fnYuv2rgb y u v)) ∧
  ∀ (s : State) y u v, ∃ r : ResultWord,
    exec (.fnYuv2rgb y u v) s = .next { s with responses := ⟨.ok, r⟩ :: s.responses } ∧
    holdsPixel r (bt601 y.toNat u.toNat v.toNat)

/-- FN_YUYV2 (R158): the two pixels of a group, both with its U and V, in the PIX2 layout; no state changes. -/
def Obligations.FnYuyv2ConvertsThePair : Prop :=
  (∀ y0 u y1 v : Byte, decode (0x36#8 ++ 0#24 ++ v ++ y1 ++ u ++ y0 : BitVec 64) = .ok (.fnYuyv2 y0 u y1 v)) ∧
  ∀ (s : State) y0 u y1 v, ∃ r : ResultWord,
    exec (.fnYuyv2 y0 u y1 v) s = .next { s with responses := ⟨.ok, r⟩ :: s.responses } ∧
    holdsPixel (0#40 ++ r.extractLsb' 0 24 : BitVec 64) (bt601 y0.toNat u.toNat v.toNat) ∧
    holdsPixel (0#40 ++ r.extractLsb' 32 24 : BitVec 64) (bt601 y1.toNat u.toNat v.toNat) ∧
    r.extractLsb' 24 8 = 0 ∧ r.extractLsb' 56 8 = 0

/-- FN_565S (R125): shift expansion of the sample, in the PIX layout; EXP is not read, no state changes. -/
def Obligations.Fn565sExpandsByShift : Prop :=
  (∀ w : Sample, decode (0x33#8 ++ 0#24 ++ 0#16 ++ w : BitVec 64) = .ok (.fn565s w)) ∧
  ∀ (s : State) w, ∃ r : ResultWord, exec (.fn565s w) s = .next { s with responses := ⟨.ok, r⟩ :: s.responses } ∧
    holdsPixel r (shift565 w.toNat)

/-- FN_565P (R126): proportional expansion of the sample, in the PIX layout; EXP is not read, no state changes. -/
def Obligations.Fn565pExpandsProportionally : Prop :=
  (∀ w : Sample, decode (0x34#8 ++ 0#24 ++ 0#16 ++ w : BitVec 64) = .ok (.fn565p w)) ∧
  ∀ (s : State) w, ∃ r : ResultWord, exec (.fn565p w) s = .next { s with responses := ⟨.ok, r⟩ :: s.responses } ∧
    holdsPixel r (prop565 w.toNat)

/-- FN_LUMA (R173): the luma byte unchanged in all three channels, in the PIX layout; no state changes. -/
def Obligations.FnLumaCopiesTheByte : Prop :=
  (∀ y : Byte, decode (0x35#8 ++ 0#24 ++ 0#24 ++ y : BitVec 64) = .ok (.fnLuma y)) ∧
  ∀ (s : State) y, ∃ r : ResultWord, exec (.fnLuma y) s = .next { s with responses := ⟨.ok, r⟩ :: s.responses } ∧
    holdsPixel r ⟨y.toNat, y.toNat, y.toNat⟩

/-! ### The numeric utilities -/

/-- The clipper (R140) for every integer: in 0..255, 255 above, 0 below, the value itself between. -/
def Obligations.Clip8NeverWraps : Prop :=
  ∀ x : Int, clip8 x = max 0 (min 255 x) ∧ 0 ≤ clip8 x ∧ clip8 x ≤ 255 ∧ (255 < x → clip8 x = 255) ∧
    (x < 0 → clip8 x = 0)

/-- The rounding utility takes every integer to the nearest multiple of 256, a tie upwards. -/
def Obligations.Rnd8RoundsToNearestTieUp : Prop :=
  (∀ m : Int, 256 * rnd8 m - 128 ≤ m ∧ m < 256 * rnd8 m + 128) ∧
  (∀ k : Int, rnd8 (256 * k + 128) = k + 1) ∧ rnd8 128 = 1 ∧ rnd8 (-128) = 0 ∧ rnd8 (-129) = -1

/-- The exact ranges of the three accumulators over all Y, U, V, with the triples that reach them; all fit in 19 bits
signed. -/
def Obligations.AccumulatorRangesAreExact : Prop :=
  (∀ y u v : Byte,
    -56992 ≤ accR y u v ∧ accR y u v ≤ 123293 ∧ -43756 ≤ accG y u v ∧ accG y u v ≤ 110774 ∧
      -70688 ≤ accB y u v ∧ accB y u v ≤ 136882) ∧
  (∀ x : Byte, accR 0 x 0 = -56992 ∧ accR 255 x 255 = 123293 ∧ accB 0 0 x = -70688 ∧
    accB 255 255 x = 136882) ∧
  accG 0 255 255 = -43756 ∧ accG 255 0 0 = 110774

/-- After clipping, it does not show whether the shift rounds a negative accumulator down or toward zero; before it,
it does. -/
def Obligations.ClippingHidesTheRounding : Prop :=
  (∀ a : Int, clip8 (asr a 8) = clip8 (a.tdiv 256)) ∧ ∃ x : Int, rnd8 x ≠ (x + 128).tdiv 256

/-- Neutral chroma gives a grey: the three channels are equal, do not decrease with Y, are 0 up to Y = 16 and 255
from Y = 235 on. -/
def Obligations.NeutralChromaGivesAGreyRamp : Prop :=
  (∀ y : Byte, (yuv2rgb y 128 128).r = (yuv2rgb y 128 128).g ∧
    (yuv2rgb y 128 128).g = (yuv2rgb y 128 128).b ∧
    ((yuv2rgb y 128 128).r.toNat : Int) = sat ((298 * ((y.toNat : Int) - 16) + 128) / 256)) ∧
  (∀ a b : Byte, a.toNat ≤ b.toNat →
    (yuv2rgb a 128 128).r.toNat ≤ (yuv2rgb b 128 128).r.toNat) ∧
  ∀ y : Byte, (y.toNat ≤ 16 → yuv2rgb y 128 128 = ⟨0, 0, 0⟩) ∧
    (235 ≤ y.toNat → yuv2rgb y 128 128 = ⟨255, 255, 255⟩)

/-- The two pixels of a pair have the same chroma terms: their accumulators differ by `298 * (Y1 - Y0)`, and pixels of
equal Y are equal. -/
def Obligations.PairSharesItsChroma : Prop :=
  (∀ y0 y1 u v : Byte,
    accR y1 u v - accR y0 u v = 298 * ((y1.toNat : Int) - y0.toNat) ∧
      accG y1 u v - accG y0 u v = 298 * ((y1.toNat : Int) - y0.toNat) ∧
      accB y1 u v - accB y0 u v = 298 * ((y1.toNat : Int) - y0.toNat)) ∧
  ∀ (s : State) y u v, ∃ r : ResultWord,
    exec (.fnYuyv2 y u y v) s = .next { s with responses := ⟨.ok, r⟩ :: s.responses } ∧
    r.extractLsb' 0 24 = r.extractLsb' 32 24

/-- Proportional expansion is never below shift expansion; the difference is `floor(7 R5 / 31)`, `floor(G6 / 21)`,
`floor(7 B5 / 31)`. -/
def Obligations.ProportionalExceedsShift : Prop :=
  ∀ w : Sample,
    (expandProp w).r.toNat = (expandShift w).r.toNat + 7 * (w.toNat / 2048) / 31 ∧
      (expandProp w).g.toNat = (expandShift w).g.toNat + w.toNat / 32 % 64 / 21 ∧
      (expandProp w).b.toNat = (expandShift w).b.toNat + 7 * (w.toNat % 32) / 31

/-- A channel that is encoded by rounding and decoded by shift expansion comes back within 4 (5 bits) or 2 (6 bits)
below the top of the range, and within 7 or 3 at the top; with a truncating encoder the error lies in 0..7 or 0..3. -/
def Obligations.ShiftRoundTripError : Prop :=
  ∀ v r g b : Nat, v ≤ 255 → ∀ w : Sample, w.toNat = 2048 * r + 32 * g + b →
    (r = encodeRound 5 v → g = encodeRound 6 v → b = encodeRound 5 v →
      (expandShift w).r = (expandShift w).b ∧
      (v ≤ 252 → ((v : Int) - (expandShift w).r.toNat).natAbs ≤ 4) ∧
      (252 < v → (expandShift w).r.toNat + (v - 248) = v) ∧
      (v ≤ 254 → ((v : Int) - (expandShift w).g.toNat).natAbs ≤ 2) ∧
      (v = 255 → (expandShift w).g.toNat + 3 = v)) ∧
    (r = encodeTrunc 5 v → g = encodeTrunc 6 v → b = encodeTrunc 5 v →
      (expandShift w).r = (expandShift w).b ∧
      (expandShift w).r.toNat ≤ v ∧ v ≤ (expandShift w).r.toNat + 7 ∧
      (expandShift w).g.toNat ≤ v ∧ v ≤ (expandShift w).g.toNat + 3)

/-! ### The whole machine -/

/-- Only the commands the register table lists can change a register, only RX_BYTE writes FB, and only DECODE writes
RASTER. -/
def Obligations.OnlyListedCommandsWriteEachRegister : Prop :=
  ∀ i (s t : State), exec i s = .next t →
    (t.w ≠ s.w ∨ t.h ≠ s.h → ∃ w h, i = .setGeom w h) ∧
    (t.fmt ≠ s.fmt ∨ t.exp ≠ s.exp ∨ t.flip ≠ s.flip ∨ t.modeValid ≠ s.modeValid →
      ∃ fmt exp flip, i = .setMode fmt exp flip) ∧
    (t.count ≠ s.count → (∃ b, i = .rxByte b) ∨ i = .rxEnd ∨ ∃ w h, i = .setGeom w h) ∧
    (t.frameReady ≠ s.frameReady ∨ t.fbLen ≠ s.fbLen → (∃ b, i = .rxByte b) ∨ i = .decodeFrame) ∧
    (t.rasterValid ≠ s.rasterValid ∨ t.rastW ≠ s.rastW ∨ t.rastH ≠ s.rastH ∨ t.raster ≠ s.raster →
      i = .decodeFrame) ∧
    (t.fb ≠ s.fb → ∃ b, i = .rxByte b) ∧ t.inputs = s.inputs

/-- The three status flags change as the table of R35 says: FRAME_READY is set by the RX_BYTE that completes a frame
and cleared by every DECODE that finds it, RASTER_VALID set by a successful DECODE and cleared by a failed one
that found a frame, MODE_VALID set by SET_MODE and cleared by no command. -/
def Obligations.StatusFlagsChangeOnlyAsListed : Prop :=
  ∀ i (s t : State), exec i s = .next t →
    (s.frameReady = false → t.frameReady = true →
      (∃ b, i = .rxByte b) ∧ t.responses = ⟨.frameDone, 0⟩ :: s.responses) ∧
    (s.frameReady = true → (t.frameReady = false ↔ i = .decodeFrame)) ∧
    (s.rasterValid = false → t.rasterValid = true →
      i = .decodeFrame ∧ t.responses = ⟨.ok, 0⟩ :: s.responses) ∧
    (s.rasterValid = true → t.rasterValid = false →
      i = .decodeFrame ∧ s.frameReady = true ∧ t.responses ≠ ⟨.ok, 0⟩ :: s.responses) ∧
    (i = .decodeFrame → s.frameReady = true →
      (t.rasterValid = true ↔ t.responses = ⟨.ok, 0⟩ :: s.responses)) ∧
    (s.modeValid = true → t.modeValid = true) ∧
    (t.modeValid = true → s.modeValid = true ∨ ∃ fmt exp flip, i = .setMode fmt exp flip)

/-- The GET_* and FN_* commands and RD_PIXEL change nothing but the responses, and their answers are the same if they
are repeated. -/
def Obligations.ReadingCommandsChangeNothing : Prop :=
  ∀ i (s t : State), (∀ w h, i ≠ .setGeom w h) → (∀ fmt exp flip, i ≠ .setMode fmt exp flip) → (∀ b, i ≠ .rxByte b) →
    i ≠ .rxEnd → i ≠ .decodeFrame → exec i s = .next t →
    onlyAnswers s t ∧ ∃ u, exec i t = .next u ∧ onlyAnswers t u ∧
      u.responses.head? = t.responses.head?

/-- The machine right after reset satisfies the invariant of Safety.lean. -/
def Obligations.ResetStateIsGood : Prop := GoodState State.reset

/-- Every step keeps the invariant: the geometry stays legal, COUNT and FB_LEN stay in their ranges with their bytes
written, a valid raster stays whole, and both memories keep their canonical form and bounds. -/
def Obligations.EveryStepKeepsTheInvariant : Prop := ∀ s t : State, GoodState s → step s = .next t → GoodState t

/-- In a good state no command and no step stops: every command ends with one response more and the next state is
good. -/
def Obligations.GoodStatesNeverStop : Prop :=
  ∀ s : State, GoodState s → Completes (step s) ∧
    ∀ i, ∃ t r, exec i s = .next t ∧ GoodState t ∧ t.responses = r :: s.responses

/-- From a good state the machine runs for any number of steps without a fault or a refusal, whatever is presented. -/
def Obligations.GoodStatesRunForever : Prop :=
  ∀ n (s : State) (xs : List Input), GoodState s → ∃ t, core.run n ({ s with inputs := xs } : State) = .next t ∧ GoodState t

/-- The model stops exactly on an access to a byte that does not exist or that nothing has written, in whatever state
(the model's choice, log entries 3 and 5). RX_BYTE stops when COUNT is past FB; RD_PIXEL when its pixel is past RASTER
or one of its three bytes is unwritten; DECODE when its checks pass and one of the FB bytes that its pixels read is past
FB or unwritten, or when the raster does not fit, each with the fault that names it. No other command stops, and no
command is refused. -/
def Obligations.ImpossibleAccessesStop : Prop :=
  ∀ (s : State) (e : Fault),
    (∀ b, exec (.rxByte b) s = .fault e ↔
      s.frameReady = false ∧ Config.fbCapacity ≤ s.count.toNat ∧ e = .fbOutOfRange) ∧
    (∀ p, exec (.rdPixel p) s = .fault e ↔
      s.rasterValid = true ∧ p < s.rastW.toNat * s.rastH.toNat ∧
        (Config.rasterCapacity ≤ 3 * p ∧ e = .rasterOutOfRange ∨
          3 * p < Config.rasterCapacity ∧ (∃ k, k < 3 ∧ Memory.read s.raster (3 * p + k) = none) ∧
            e = .rasterUnwritten)) ∧
    (exec .decodeFrame s = .fault e →
      checksPass s ∧
        (e = .fbOutOfRange ∧ (∃ k, decodeReads s k ∧ Config.fbCapacity ≤ k) ∨
          e = .fbUnwritten ∧ (∃ k, decodeReads s k ∧ k < Config.fbCapacity ∧ Memory.read s.fb k = none) ∨
          e = .rasterOutOfRange ∧ Config.rasterCapacity < 3 * (s.w.toNat * s.h.toNat) ∧
            ∀ k, decodeReads s k → k < Config.fbCapacity ∧ ∃ b, Memory.read s.fb k = some b)) ∧
    (checksPass s →
      (∃ k, decodeReads s k ∧ (Config.fbCapacity ≤ k ∨ Memory.read s.fb k = none)) ∨
        Config.rasterCapacity < 3 * (s.w.toNat * s.h.toNat) →
      ∃ e', exec .decodeFrame s = .fault e') ∧
    (∀ i, exec i s = .fault e → (∃ b, i = .rxByte b) ∨ (∃ p, i = .rdPixel p) ∨ i = .decodeFrame) ∧
    ∀ i r, exec i s ≠ .refused r
end

