-- ==== Sys2Proof/Laws/Memory.lean ====
section
/-! SUPPORT. The laws of the byte memories: a read after a write, and the canonical form that every write keeps. -/

namespace Sys2Proof.Machine

open Sys2Proof

@[simp] theorem Memory.read_nil (i : Nat) : Memory.read [] i = none := rfl

theorem Memory.read_cons (a : Nat) (b : Byte) (m : Memory) (i : Nat) :
    Memory.read ((a, b) :: m) i = if i = a then some b else Memory.read m i := rfl

/-- A read at the written index gives the byte written. -/
@[simp] theorem Memory.read_write_same (m : Memory) (i : Nat) (v : Byte) :
    Memory.read (Memory.write m i v) i = some v := by
  induction m with
  | nil => simp [Memory.write, Memory.read]
  | cons c m ih =>
    obtain ⟨a, b⟩ := c
    simp only [Memory.write]
    split
    · simp [Memory.read]
    · split
      · simp [Memory.read]
      · rename_i h1 h2
        simp [Memory.read_cons, h2, ih]

/-- A write leaves every other index alone. -/
theorem Memory.read_write_other (m : Memory) {i j : Nat} (v : Byte) (h : j ≠ i) :
    Memory.read (Memory.write m i v) j = Memory.read m j := by
  induction m with
  | nil => simp [Memory.write, Memory.read, h]
  | cons c m ih =>
    obtain ⟨a, b⟩ := c
    simp only [Memory.write]
    split
    · simp [Memory.read_cons, h]
    · split
      · rename_i h1 h2
        subst h2
        simp [Memory.read_cons, h]
      · simp [Memory.read_cons, ih]

/-- What a write can put into a memory: its own cell, or one that was there. -/
theorem Memory.mem_write {m : Memory} {i : Nat} {v : Byte} {c : Host.Cell}
    (h : c ∈ Memory.write m i v) : c = (i, v) ∨ c ∈ m := by
  induction m with
  | nil => simpa [Memory.write] using h
  | cons d m ih =>
    obtain ⟨a, b⟩ := d
    simp only [Memory.write] at h
    split at h
    · simpa using h
    · split at h
      · rcases List.mem_cons.mp h with h | h
        · exact .inl h
        · exact .inr (List.mem_cons_of_mem _ h)
      · rcases List.mem_cons.mp h with h | h
        · exact .inr (h ▸ List.mem_cons_self)
        · exact (ih h).imp id (List.mem_cons_of_mem _)

theorem Memory.wf_iff (m : Memory) :
    Memory.wf m = true ↔ List.Pairwise (fun c d : Host.Cell => c.1 < d.1) m := by
  simp [Memory.wf]

@[simp] theorem Memory.wf_nil : Memory.wf [] = true := by simp [Memory.wf]

/-- A write keeps the canonical form. -/
theorem Memory.write_wf {m : Memory} (i : Nat) (v : Byte) (h : Memory.wf m = true) :
    Memory.wf (Memory.write m i v) = true := by
  rw [Memory.wf_iff] at h ⊢
  induction m with
  | nil => simp [Memory.write]
  | cons d m ih =>
    obtain ⟨a, b⟩ := d
    obtain ⟨hd, hm⟩ := List.pairwise_cons.mp h
    simp only [Memory.write]
    split
    · rename_i hlt
      refine List.pairwise_cons.mpr ⟨fun c hc => ?_, h⟩
      rcases List.mem_cons.mp hc with rfl | hc
      · exact hlt
      · exact Nat.lt_trans hlt (hd c hc)
    · split
      · rename_i heq
        exact List.pairwise_cons.mpr ⟨fun c hc => heq ▸ hd c hc, hm⟩
      · rename_i hnlt hne
        refine List.pairwise_cons.mpr ⟨fun c hc => ?_, ih hm⟩
        rcases Memory.mem_write hc with rfl | hc
        · exact Nat.lt_of_le_of_ne (Nat.le_of_not_lt hnlt) (Ne.symm hne)
        · exact hd c hc

/-- A run of writes keeps the canonical form. -/
theorem Memory.writeBytes_wf {m : Memory} (i : Nat) (vs : List Byte) (h : Memory.wf m = true) :
    Memory.wf (Memory.writeBytes m i vs) = true := by
  induction vs generalizing m i with
  | nil => exact h
  | cons v vs ih => exact ih (i + 1) (Memory.write_wf i v h)

/-- A write below the bound keeps a memory below it. -/
theorem Below.write {m : Memory} {n i : Nat} (v : Byte) (h : Below m n) (hi : i < n) :
    Below (Memory.write m i v) n := by
  intro c hc
  rcases Memory.mem_write hc with rfl | hc
  · exact hi
  · exact h c hc

/-- A run of writes below the bound keeps a memory below it. -/
theorem Below.writeBytes {m : Memory} {n i : Nat} {vs : List Byte} (h : Below m n)
    (hi : i + vs.length ≤ n) : Below (Memory.writeBytes m i vs) n := by
  induction vs generalizing m i with
  | nil => exact h
  | cons v vs ih =>
    simp only [List.length_cons] at hi
    exact ih (h.write v (by omega)) (by omega)

/-- A run of writes leaves every index outside it alone. -/
theorem Memory.read_writeBytes_other (m : Memory) {i j : Nat} (vs : List Byte)
    (h : j < i ∨ i + vs.length ≤ j) :
    Memory.read (Memory.writeBytes m i vs) j = Memory.read m j := by
  induction vs generalizing m i with
  | nil => rfl
  | cons v vs ih =>
    simp only [List.length_cons] at h
    rw [Memory.writeBytes, ih (Memory.write m i v) (by omega),
      Memory.read_write_other m v (by omega)]

/-- A read inside a run of writes gives the byte of its place. -/
theorem Memory.read_writeBytes_inside (m : Memory) (i : Nat) (vs : List Byte) {k : Nat}
    (h : k < vs.length) :
    Memory.read (Memory.writeBytes m i vs) (i + k) = some vs[k] := by
  induction vs generalizing m i k with
  | nil => simp at h
  | cons v vs ih =>
    rw [Memory.writeBytes]
    cases k with
    | zero =>
      rw [Memory.read_writeBytes_other _ vs (by omega)]
      simp
    | succ k =>
      have hk : k < vs.length := by simpa using h
      have := ih (Memory.write m i v) (i + 1) hk
      rw [show i + (k + 1) = i + 1 + k by omega, this]
      simp

/-- What was written stays written. -/
theorem Written.write {m : Memory} {n : Nat} (i : Nat) (v : Byte) (h : Written m n) :
    Written (Memory.write m i v) n := by
  intro j hj
  by_cases hji : j = i
  · subst hji
    simp
  · rw [Memory.read_write_other m v hji]
    exact h j hj

/-- Writing the next byte makes one more byte written. -/
theorem Written.write_succ {m : Memory} {n : Nat} (v : Byte) (h : Written m n) :
    Written (Memory.write m n v) (n + 1) := by
  intro j hj
  by_cases hji : j = n
  · subst hji
    simp
  · exact (h.write n v) j (by omega)

@[simp] theorem Written.zero (m : Memory) : Written m 0 := fun _ h => absurd h (Nat.not_lt_zero _)

@[simp] theorem Below.nil (n : Nat) : Below [] n := fun _ h => by simp at h

end Sys2Proof.Machine
end

