-- ==== Sys2Proof/Laws/State.lean ====
section
/-! SUPPORT. What each update of the state does to each field, one lemma per field and update, so that no proof
unfolds a record update. -/

namespace Sys2Proof.Machine

open Sys2Proof

variable (s : State)

/-! ### A response -/

@[simp] theorem State.answer_w (st : Status) (v : ResultWord) : (s.answer st v).w = s.w := rfl
@[simp] theorem State.answer_h (st : Status) (v : ResultWord) : (s.answer st v).h = s.h := rfl
@[simp] theorem State.answer_fmt (st : Status) (v : ResultWord) : (s.answer st v).fmt = s.fmt := rfl
@[simp] theorem State.answer_exp (st : Status) (v : ResultWord) : (s.answer st v).exp = s.exp := rfl
@[simp] theorem State.answer_flip (st : Status) (v : ResultWord) : (s.answer st v).flip = s.flip := rfl
@[simp] theorem State.answer_modeValid (st : Status) (v : ResultWord) :
    (s.answer st v).modeValid = s.modeValid := rfl
@[simp] theorem State.answer_count (st : Status) (v : ResultWord) : (s.answer st v).count = s.count := rfl
@[simp] theorem State.answer_frameReady (st : Status) (v : ResultWord) :
    (s.answer st v).frameReady = s.frameReady := rfl
@[simp] theorem State.answer_fbLen (st : Status) (v : ResultWord) : (s.answer st v).fbLen = s.fbLen := rfl
@[simp] theorem State.answer_rasterValid (st : Status) (v : ResultWord) :
    (s.answer st v).rasterValid = s.rasterValid := rfl
@[simp] theorem State.answer_rastW (st : Status) (v : ResultWord) : (s.answer st v).rastW = s.rastW := rfl
@[simp] theorem State.answer_rastH (st : Status) (v : ResultWord) : (s.answer st v).rastH = s.rastH := rfl
@[simp] theorem State.answer_fb (st : Status) (v : ResultWord) : (s.answer st v).fb = s.fb := rfl
@[simp] theorem State.answer_raster (st : Status) (v : ResultWord) : (s.answer st v).raster = s.raster := rfl
@[simp] theorem State.answer_inputs (st : Status) (v : ResultWord) : (s.answer st v).inputs = s.inputs := rfl
@[simp] theorem State.answer_responses (st : Status) (v : ResultWord) :
    (s.answer st v).responses = ⟨st, v⟩ :: s.responses := rfl

/-! ### Completing a frame -/

@[simp] theorem State.completeFrame_w (e : Nat) : (s.completeFrame e).w = s.w := rfl
@[simp] theorem State.completeFrame_h (e : Nat) : (s.completeFrame e).h = s.h := rfl
@[simp] theorem State.completeFrame_fmt (e : Nat) : (s.completeFrame e).fmt = s.fmt := rfl
@[simp] theorem State.completeFrame_exp (e : Nat) : (s.completeFrame e).exp = s.exp := rfl
@[simp] theorem State.completeFrame_flip (e : Nat) : (s.completeFrame e).flip = s.flip := rfl
@[simp] theorem State.completeFrame_modeValid (e : Nat) : (s.completeFrame e).modeValid = s.modeValid := rfl
@[simp] theorem State.completeFrame_count (e : Nat) : (s.completeFrame e).count = 0 := rfl
@[simp] theorem State.completeFrame_frameReady (e : Nat) : (s.completeFrame e).frameReady = true := rfl
@[simp] theorem State.completeFrame_fbLen (e : Nat) : (s.completeFrame e).fbLen = BitVec.ofNat 32 e := rfl
@[simp] theorem State.completeFrame_rasterValid (e : Nat) : (s.completeFrame e).rasterValid = s.rasterValid := rfl
@[simp] theorem State.completeFrame_rastW (e : Nat) : (s.completeFrame e).rastW = s.rastW := rfl
@[simp] theorem State.completeFrame_rastH (e : Nat) : (s.completeFrame e).rastH = s.rastH := rfl
@[simp] theorem State.completeFrame_fb (e : Nat) : (s.completeFrame e).fb = s.fb := rfl
@[simp] theorem State.completeFrame_raster (e : Nat) : (s.completeFrame e).raster = s.raster := rfl
@[simp] theorem State.completeFrame_inputs (e : Nat) : (s.completeFrame e).inputs = s.inputs := rfl
@[simp] theorem State.completeFrame_responses (e : Nat) : (s.completeFrame e).responses = s.responses := rfl

/-! ### Consuming a frame -/

@[simp] theorem State.consumeFrame_w : s.consumeFrame.w = s.w := rfl
@[simp] theorem State.consumeFrame_h : s.consumeFrame.h = s.h := rfl
@[simp] theorem State.consumeFrame_fmt : s.consumeFrame.fmt = s.fmt := rfl
@[simp] theorem State.consumeFrame_exp : s.consumeFrame.exp = s.exp := rfl
@[simp] theorem State.consumeFrame_flip : s.consumeFrame.flip = s.flip := rfl
@[simp] theorem State.consumeFrame_modeValid : s.consumeFrame.modeValid = s.modeValid := rfl
@[simp] theorem State.consumeFrame_count : s.consumeFrame.count = s.count := rfl
@[simp] theorem State.consumeFrame_frameReady : s.consumeFrame.frameReady = false := rfl
@[simp] theorem State.consumeFrame_fbLen : s.consumeFrame.fbLen = 0 := rfl
@[simp] theorem State.consumeFrame_rasterValid : s.consumeFrame.rasterValid = s.rasterValid := rfl
@[simp] theorem State.consumeFrame_rastW : s.consumeFrame.rastW = s.rastW := rfl
@[simp] theorem State.consumeFrame_rastH : s.consumeFrame.rastH = s.rastH := rfl
@[simp] theorem State.consumeFrame_fb : s.consumeFrame.fb = s.fb := rfl
@[simp] theorem State.consumeFrame_raster : s.consumeFrame.raster = s.raster := rfl
@[simp] theorem State.consumeFrame_inputs : s.consumeFrame.inputs = s.inputs := rfl
@[simp] theorem State.consumeFrame_responses : s.consumeFrame.responses = s.responses := rfl

/-! ### Validating the raster -/

@[simp] theorem State.validateRaster_w : s.validateRaster.w = s.w := rfl
@[simp] theorem State.validateRaster_h : s.validateRaster.h = s.h := rfl
@[simp] theorem State.validateRaster_fmt : s.validateRaster.fmt = s.fmt := rfl
@[simp] theorem State.validateRaster_exp : s.validateRaster.exp = s.exp := rfl
@[simp] theorem State.validateRaster_flip : s.validateRaster.flip = s.flip := rfl
@[simp] theorem State.validateRaster_modeValid : s.validateRaster.modeValid = s.modeValid := rfl
@[simp] theorem State.validateRaster_count : s.validateRaster.count = s.count := rfl
@[simp] theorem State.validateRaster_frameReady : s.validateRaster.frameReady = s.frameReady := rfl
@[simp] theorem State.validateRaster_fbLen : s.validateRaster.fbLen = s.fbLen := rfl
@[simp] theorem State.validateRaster_rasterValid : s.validateRaster.rasterValid = true := rfl
@[simp] theorem State.validateRaster_rastW : s.validateRaster.rastW = s.w := rfl
@[simp] theorem State.validateRaster_rastH : s.validateRaster.rastH = s.h := rfl
@[simp] theorem State.validateRaster_fb : s.validateRaster.fb = s.fb := rfl
@[simp] theorem State.validateRaster_raster : s.validateRaster.raster = s.raster := rfl
@[simp] theorem State.validateRaster_inputs : s.validateRaster.inputs = s.inputs := rfl
@[simp] theorem State.validateRaster_responses : s.validateRaster.responses = s.responses := rfl

/-! ### Invalidating the raster -/

@[simp] theorem State.invalidateRaster_w : s.invalidateRaster.w = s.w := rfl
@[simp] theorem State.invalidateRaster_h : s.invalidateRaster.h = s.h := rfl
@[simp] theorem State.invalidateRaster_fmt : s.invalidateRaster.fmt = s.fmt := rfl
@[simp] theorem State.invalidateRaster_exp : s.invalidateRaster.exp = s.exp := rfl
@[simp] theorem State.invalidateRaster_flip : s.invalidateRaster.flip = s.flip := rfl
@[simp] theorem State.invalidateRaster_modeValid : s.invalidateRaster.modeValid = s.modeValid := rfl
@[simp] theorem State.invalidateRaster_count : s.invalidateRaster.count = s.count := rfl
@[simp] theorem State.invalidateRaster_frameReady : s.invalidateRaster.frameReady = s.frameReady := rfl
@[simp] theorem State.invalidateRaster_fbLen : s.invalidateRaster.fbLen = s.fbLen := rfl
@[simp] theorem State.invalidateRaster_rasterValid : s.invalidateRaster.rasterValid = false := rfl
@[simp] theorem State.invalidateRaster_rastW : s.invalidateRaster.rastW = 0 := rfl
@[simp] theorem State.invalidateRaster_rastH : s.invalidateRaster.rastH = 0 := rfl
@[simp] theorem State.invalidateRaster_fb : s.invalidateRaster.fb = s.fb := rfl
@[simp] theorem State.invalidateRaster_raster : s.invalidateRaster.raster = s.raster := rfl
@[simp] theorem State.invalidateRaster_inputs : s.invalidateRaster.inputs = s.inputs := rfl
@[simp] theorem State.invalidateRaster_responses : s.invalidateRaster.responses = s.responses := rfl

/-! ### Setting the mode -/

@[simp] theorem State.setModeFields_w (f : BitVec 2) (e l : Bool) : (s.setModeFields f e l).w = s.w := rfl
@[simp] theorem State.setModeFields_h (f : BitVec 2) (e l : Bool) : (s.setModeFields f e l).h = s.h := rfl
@[simp] theorem State.setModeFields_fmt (f : BitVec 2) (e l : Bool) : (s.setModeFields f e l).fmt = f := rfl
@[simp] theorem State.setModeFields_exp (f : BitVec 2) (e l : Bool) : (s.setModeFields f e l).exp = e := rfl
@[simp] theorem State.setModeFields_flip (f : BitVec 2) (e l : Bool) : (s.setModeFields f e l).flip = l := rfl
@[simp] theorem State.setModeFields_modeValid (f : BitVec 2) (e l : Bool) :
    (s.setModeFields f e l).modeValid = true := rfl
@[simp] theorem State.setModeFields_count (f : BitVec 2) (e l : Bool) :
    (s.setModeFields f e l).count = s.count := rfl
@[simp] theorem State.setModeFields_frameReady (f : BitVec 2) (e l : Bool) :
    (s.setModeFields f e l).frameReady = s.frameReady := rfl
@[simp] theorem State.setModeFields_fbLen (f : BitVec 2) (e l : Bool) :
    (s.setModeFields f e l).fbLen = s.fbLen := rfl
@[simp] theorem State.setModeFields_rasterValid (f : BitVec 2) (e l : Bool) :
    (s.setModeFields f e l).rasterValid = s.rasterValid := rfl
@[simp] theorem State.setModeFields_rastW (f : BitVec 2) (e l : Bool) :
    (s.setModeFields f e l).rastW = s.rastW := rfl
@[simp] theorem State.setModeFields_rastH (f : BitVec 2) (e l : Bool) :
    (s.setModeFields f e l).rastH = s.rastH := rfl
@[simp] theorem State.setModeFields_fb (f : BitVec 2) (e l : Bool) : (s.setModeFields f e l).fb = s.fb := rfl
@[simp] theorem State.setModeFields_raster (f : BitVec 2) (e l : Bool) :
    (s.setModeFields f e l).raster = s.raster := rfl
@[simp] theorem State.setModeFields_inputs (f : BitVec 2) (e l : Bool) :
    (s.setModeFields f e l).inputs = s.inputs := rfl
@[simp] theorem State.setModeFields_responses (f : BitVec 2) (e l : Bool) :
    (s.setModeFields f e l).responses = s.responses := rfl

/-! ### Setting the geometry -/

@[simp] theorem State.setGeometry_w (a b : BitVec 16) : (s.setGeometry a b).w = a := rfl
@[simp] theorem State.setGeometry_h (a b : BitVec 16) : (s.setGeometry a b).h = b := rfl
@[simp] theorem State.setGeometry_fmt (a b : BitVec 16) : (s.setGeometry a b).fmt = s.fmt := rfl
@[simp] theorem State.setGeometry_exp (a b : BitVec 16) : (s.setGeometry a b).exp = s.exp := rfl
@[simp] theorem State.setGeometry_flip (a b : BitVec 16) : (s.setGeometry a b).flip = s.flip := rfl
@[simp] theorem State.setGeometry_modeValid (a b : BitVec 16) : (s.setGeometry a b).modeValid = s.modeValid := rfl
@[simp] theorem State.setGeometry_count (a b : BitVec 16) : (s.setGeometry a b).count = 0 := rfl
@[simp] theorem State.setGeometry_frameReady (a b : BitVec 16) :
    (s.setGeometry a b).frameReady = s.frameReady := rfl
@[simp] theorem State.setGeometry_fbLen (a b : BitVec 16) : (s.setGeometry a b).fbLen = s.fbLen := rfl
@[simp] theorem State.setGeometry_rasterValid (a b : BitVec 16) :
    (s.setGeometry a b).rasterValid = s.rasterValid := rfl
@[simp] theorem State.setGeometry_rastW (a b : BitVec 16) : (s.setGeometry a b).rastW = s.rastW := rfl
@[simp] theorem State.setGeometry_rastH (a b : BitVec 16) : (s.setGeometry a b).rastH = s.rastH := rfl
@[simp] theorem State.setGeometry_fb (a b : BitVec 16) : (s.setGeometry a b).fb = s.fb := rfl
@[simp] theorem State.setGeometry_raster (a b : BitVec 16) : (s.setGeometry a b).raster = s.raster := rfl
@[simp] theorem State.setGeometry_inputs (a b : BitVec 16) : (s.setGeometry a b).inputs = s.inputs := rfl
@[simp] theorem State.setGeometry_responses (a b : BitVec 16) : (s.setGeometry a b).responses = s.responses := rfl

/-! ### Discarding a partial frame -/

@[simp] theorem State.discardPartial_w : s.discardPartial.w = s.w := rfl
@[simp] theorem State.discardPartial_h : s.discardPartial.h = s.h := rfl
@[simp] theorem State.discardPartial_fmt : s.discardPartial.fmt = s.fmt := rfl
@[simp] theorem State.discardPartial_exp : s.discardPartial.exp = s.exp := rfl
@[simp] theorem State.discardPartial_flip : s.discardPartial.flip = s.flip := rfl
@[simp] theorem State.discardPartial_modeValid : s.discardPartial.modeValid = s.modeValid := rfl
@[simp] theorem State.discardPartial_count : s.discardPartial.count = 0 := rfl
@[simp] theorem State.discardPartial_frameReady : s.discardPartial.frameReady = s.frameReady := rfl
@[simp] theorem State.discardPartial_fbLen : s.discardPartial.fbLen = s.fbLen := rfl
@[simp] theorem State.discardPartial_rasterValid : s.discardPartial.rasterValid = s.rasterValid := rfl
@[simp] theorem State.discardPartial_rastW : s.discardPartial.rastW = s.rastW := rfl
@[simp] theorem State.discardPartial_rastH : s.discardPartial.rastH = s.rastH := rfl
@[simp] theorem State.discardPartial_fb : s.discardPartial.fb = s.fb := rfl
@[simp] theorem State.discardPartial_raster : s.discardPartial.raster = s.raster := rfl
@[simp] theorem State.discardPartial_inputs : s.discardPartial.inputs = s.inputs := rfl
@[simp] theorem State.discardPartial_responses : s.discardPartial.responses = s.responses := rfl

/-! ### The reset input -/

@[simp] theorem State.hardReset_w : s.hardReset.w = State.reset.w := rfl
@[simp] theorem State.hardReset_h : s.hardReset.h = State.reset.h := rfl
@[simp] theorem State.hardReset_fmt : s.hardReset.fmt = State.reset.fmt := rfl
@[simp] theorem State.hardReset_exp : s.hardReset.exp = State.reset.exp := rfl
@[simp] theorem State.hardReset_flip : s.hardReset.flip = State.reset.flip := rfl
@[simp] theorem State.hardReset_modeValid : s.hardReset.modeValid = State.reset.modeValid := rfl
@[simp] theorem State.hardReset_count : s.hardReset.count = State.reset.count := rfl
@[simp] theorem State.hardReset_frameReady : s.hardReset.frameReady = State.reset.frameReady := rfl
@[simp] theorem State.hardReset_fbLen : s.hardReset.fbLen = State.reset.fbLen := rfl
@[simp] theorem State.hardReset_rasterValid : s.hardReset.rasterValid = State.reset.rasterValid := rfl
@[simp] theorem State.hardReset_rastW : s.hardReset.rastW = State.reset.rastW := rfl
@[simp] theorem State.hardReset_rastH : s.hardReset.rastH = State.reset.rastH := rfl
@[simp] theorem State.hardReset_fb : s.hardReset.fb = State.reset.fb := rfl
@[simp] theorem State.hardReset_raster : s.hardReset.raster = State.reset.raster := rfl
@[simp] theorem State.hardReset_inputs : s.hardReset.inputs = s.inputs := rfl
@[simp] theorem State.hardReset_responses : s.hardReset.responses = s.responses := rfl

end Sys2Proof.Machine
end

