-- ==== Sys2Proof/Laws/Ops.lean ====
section
/-! SUPPORT. What each shared operation can do, said once: the bounds of the memories, the accesses, and how a command
ends. -/

namespace Sys2Proof.Machine

open Sys2Proof

/-! ### The capacity -/

theorem fbCapacity_bounds : 153600 ≤ Config.fbCapacity ∧ Config.fbCapacity ≤ 2147483647 := by
  have hs := Config.fbSlack.isLt
  have hmin : Config.fbCapacityMin = 153600 := rfl
  rw [Config.fbCapacity]
  omega

/-- The raster capacity in terms of FB_CAPACITY (rule R6). -/
theorem rasterCapacity_eq : Config.rasterCapacity = 3 * (Config.fbCapacity / 2) := by
  rw [Config.rasterCapacity]

/-- `fitsFb` is the comparison with FB_CAPACITY (rule R6). -/
theorem fitsFb_iff (n : Nat) : fitsFb n = true ↔ n ≤ Config.fbCapacity := by
  have hs := Config.fbSlack.isLt
  have hmin : Config.fbCapacityMin = 153600 := rfl
  have hmax : Config.fbCapacityMax = 2147483647 := rfl
  rw [fitsFb, Config.fbCapacity, Bool.or_eq_true, Bool.and_eq_true]
  simp only [decide_eq_true_eq]
  omega

/-- FB holds the indices below FB_CAPACITY (rule R51). -/
theorem fbExists_iff (i : Nat) : fbExists i = true ↔ i < Config.fbCapacity := by
  rw [fbExists, fitsFb_iff]
  omega

/-- RASTER holds the indices below the raster capacity (rule R52). -/
theorem rasterExists_iff (i : Nat) : rasterExists i = true ↔ i < Config.rasterCapacity := by
  rw [rasterExists, fitsFb_iff, Config.rasterCapacity]
  omega

theorem frameSize_eq (w h : BitVec 16) : frameSize w h = w.toNat * h.toNat * 2 := rfl

/-- The raster of a geometry whose frame fits in FB fits in RASTER (rule R186). -/
theorem raster_fits {w h : BitVec 16} (hf : frameSize w h ≤ Config.fbCapacity) :
    3 * (w.toNat * h.toNat) ≤ Config.rasterCapacity := by
  rw [frameSize_eq] at hf
  rw [Config.rasterCapacity]
  omega

/-! ### Accesses -/

/-- A read of FB answers exactly the bytes that exist and have been written. -/
theorem readFb_eq_ok {s : State} {i : Nat} {b : Byte} :
    readFb s i = .ok b ↔ i < Config.fbCapacity ∧ Memory.read s.fb i = some b := by
  rw [← fbExists_iff, readFb]
  split
  · split <;> simp_all
  · simp_all

/-- A write to FB answers exactly where the byte exists, and changes that byte alone. -/
theorem writeFb_eq_ok {s t : State} {i : Nat} {v : Byte} :
    writeFb s i v = .ok t ↔ i < Config.fbCapacity ∧ t = { s with fb := Memory.write s.fb i v } := by
  rw [← fbExists_iff, writeFb]
  split
  · rename_i hi
    simp only [Except.ok.injEq, hi, true_and]
    exact eq_comm
  · rename_i hi
    simp [hi]

/-- A read of RASTER answers exactly the bytes that exist and have been written. -/
theorem readRaster_eq_ok {s : State} {i : Nat} {b : Byte} :
    readRaster s i = .ok b ↔ i < Config.rasterCapacity ∧ Memory.read s.raster i = some b := by
  rw [← rasterExists_iff, readRaster]
  split
  · split <;> simp_all
  · simp_all

/-- A write of the raster answers exactly where all its bytes exist, and changes them alone. -/
theorem writeRaster_eq_ok {s t : State} {vs : List Byte} :
    writeRaster s vs = .ok t ↔
      vs.length ≤ Config.rasterCapacity ∧ t = { s with raster := Memory.writeBytes s.raster 0 vs } := by
  have hb : (vs.isEmpty || rasterExists (vs.length - 1)) = true ↔ vs.length ≤ Config.rasterCapacity := by
    cases vs with
    | nil => simp
    | cons v vs =>
      rw [Bool.or_eq_true, rasterExists_iff]
      simp only [List.isEmpty_cons, Bool.false_eq_true, false_or, List.length_cons]
      omega
  rw [← hb, writeRaster]
  split
  · rename_i hi
    simp only [Except.ok.injEq, hi, true_and]
    exact eq_comm
  · rename_i hi
    simp only [hi, false_and, reduceCtorEq, Bool.false_eq_true]

/-- A sequence of two accesses answers when both do. -/
theorem except_bind_eq_ok {α β : Type} {x : Except Fault α} {k : α → Except Fault β} {b : β} :
    (x >>= k) = .ok b ↔ ∃ a, x = .ok a ∧ k a = .ok b := by
  cases x <;> simp [bind, Except.bind]

/-- Pixel `p` is read from its three bytes (rule R52). -/
theorem readPixel_eq_ok {s : State} {p : Nat} {q : Rgb} :
    readPixel s p = .ok q ↔
      readRaster s (3 * p) = .ok q.r ∧ readRaster s (3 * p + 1) = .ok q.g ∧ readRaster s (3 * p + 2) = .ok q.b := by
  simp only [readPixel, except_bind_eq_ok]
  constructor
  · rintro ⟨r, hr, g, hg, b, hb, h⟩
    cases h
    exact ⟨hr, hg, hb⟩
  · rintro ⟨hr, hg, hb⟩
    exact ⟨q.r, hr, q.g, hg, q.b, hb, rfl⟩

/-- Reads of FB do not depend on anything but FB. -/
theorem readFb_congr {s t : State} (h : t.fb = s.fb) (i : Nat) : readFb t i = readFb s i := by
  simp [readFb, h]

/-- Reads of RASTER do not depend on anything but RASTER. -/
theorem readRaster_congr {s t : State} (h : t.raster = s.raster) (i : Nat) :
    readRaster t i = readRaster s i := by
  simp [readRaster, h]

/-- Reads of pixels do not depend on anything but RASTER. -/
theorem readPixel_congr {s t : State} (h : t.raster = s.raster) (p : Nat) :
    readPixel t p = readPixel s p := by
  simp [readPixel, readRaster_congr h]

/-! ### How a command ends -/

@[simp] theorem respond_eq (st : Status) (v : ResultWord) (s : State) :
    respond st v s = .next (s.answer st v) := rfl

@[simp] theorem raise_eq (st : Status) (s : State) : raise st s = .next (s.answer st 0) := rfl

@[simp] theorem decodeFail_eq (st : Status) (s : State) :
    decodeFail st s = .next (s.invalidateRaster.answer st 0) := rfl

@[simp] theorem onOk_ok {α : Type} (a : α) (k : α → Outcome) : onOk (.ok a) k = k a := rfl

@[simp] theorem onOk_error {α : Type} (e : Fault) (k : α → Outcome) : onOk (.error e) k = .fault e := rfl

/-- A memory access leads to a next state when it answers and what follows it does. -/
theorem onOk_eq_next {α : Type} {x : Except Fault α} {k : α → Outcome} {t : State} :
    onOk x k = .next t ↔ ∃ a, x = .ok a ∧ k a = .next t := by
  cases x <;> simp

@[simp] theorem next_inj {s t : State} : (Host.Outcome.next s : Outcome) = .next t ↔ s = t := by
  constructor
  · exact fun h => Host.Outcome.next.inj h
  · exact fun h => h ▸ rfl

end Sys2Proof.Machine
end

