-- ==== Sys2Proof/Laws/Raster.lean ====
section
/-! SUPPORT. What the per-pixel functions read, and what the raster loop computes (rules R180, R186, R187). -/

namespace Sys2Proof.Machine

open Sys2Proof

/-- The first `n` bytes of FB can be read. -/
theorem readFb_of_written {s : State} {n i : Nat} (hw : Written s.fb n) (hn : n ≤ Config.fbCapacity)
    (hi : i < n) : ∃ b, readFb s i = .ok b := by
  obtain ⟨b, hb⟩ := Option.isSome_iff_exists.mp (hw i hi)
  exact ⟨b, readFb_eq_ok.mpr ⟨Nat.lt_of_lt_of_le hi hn, hb⟩⟩

/-- An RGB565 pixel is decoded from the two bytes of its sample (rules R53, R124). -/
theorem pix565_of_bytes {s : State} {i : Nat} {lo hi : Byte} (hlo : readFb s (2 * i) = .ok lo)
    (hhi : readFb s (2 * i + 1) = .ok hi) :
    pix565 s i = .ok (if s.exp = true then expandProp (hi ++ lo) else expandShift (hi ++ lo)) := by
  simp [pix565, fbWord, hlo, hhi, bind, Except.bind]

/-- A YUV422 pixel is decoded from its luma byte and the chroma bytes of its group (rule R151). -/
theorem pixYuv_of_bytes {s : State} {i : Nat} {y u v : Byte} (hy : readFb s (2 * i) = .ok y)
    (hu : readFb s (4 * (i / 2) + 1) = .ok u) (hv : readFb s (4 * (i / 2) + 3) = .ok v) :
    pixYuv s i = .ok (yuv2rgb y u v) := by
  simp [pixYuv, hy, hu, hv, bind, Except.bind]

/-- A LUMA8 pixel is decoded from its luma byte (rule R171). -/
theorem pixLuma_of_byte {s : State} {i : Nat} {y : Byte} (hy : readFb s (2 * i) = .ok y) :
    pixLuma s i = .ok (grey y) := by
  simp [pixLuma, hy, bind, Except.bind]

/-- Every pixel of a whole frame can be decoded; under YUV422 the frame is a number of groups. -/
theorem pix_of_written {f : PixelFormat} {s : State} {n i : Nat} (hw : Written s.fb (2 * n))
    (hn : 2 * n ≤ Config.fbCapacity) (hi : i < n) (hf : f = .yuv422 → n % 2 = 0) :
    ∃ q, pix f s i = .ok q := by
  cases f with
  | rgb565 =>
    obtain ⟨lo, hlo⟩ := readFb_of_written hw hn (show 2 * i < 2 * n by omega)
    obtain ⟨hi', hhi⟩ := readFb_of_written hw hn (show 2 * i + 1 < 2 * n by omega)
    exact ⟨_, pix565_of_bytes hlo hhi⟩
  | yuv422 =>
    have heven := hf rfl
    obtain ⟨y, hy⟩ := readFb_of_written hw hn (show 2 * i < 2 * n by omega)
    obtain ⟨u, hu⟩ := readFb_of_written hw hn (show 4 * (i / 2) + 1 < 2 * n by omega)
    obtain ⟨v, hv⟩ := readFb_of_written hw hn (show 4 * (i / 2) + 3 < 2 * n by omega)
    exact ⟨_, pixYuv_of_bytes hy hu hv⟩
  | luma8 =>
    obtain ⟨y, hy⟩ := readFb_of_written hw hn (show 2 * i < 2 * n by omega)
    exact ⟨_, pixLuma_of_byte hy⟩

/-- Pixels depend on FB and EXP alone (rule R188). -/
theorem pix_congr {s t : State} (f : PixelFormat) (hfb : t.fb = s.fb) (hexp : t.exp = s.exp) (i : Nat) :
    pix f t i = pix f s i := by
  cases f <;> simp only [pix, pix565, pixYuv, pixLuma, fbWord, readFb_congr hfb, hexp]

/-- The source row of a raster row lies in the frame (rule R187). -/
theorem srcRow_lt (flip : Bool) {h r : Nat} (hr : r < h) : srcRow flip h r < h := by
  rw [srcRow]
  split <;> omega

/-- The source pixel of a raster pixel lies in the frame (rule R187). -/
theorem source_lt (flip : Bool) {w h p : Nat} (hp : p < w * h) :
    srcRow flip h (p / w) * w + p % w < w * h := by
  have hw : 0 < w := Nat.pos_of_ne_zero (by rintro rfl; simp at hp)
  have hr : p / w < h := Nat.div_lt_of_lt_mul hp
  have hc : p % w < w := Nat.mod_lt p hw
  have hs := srcRow_lt flip hr
  calc srcRow flip h (p / w) * w + p % w < srcRow flip h (p / w) * w + w := by omega
    _ = (srcRow flip h (p / w) + 1) * w := by ring
    _ ≤ h * w := Nat.mul_le_mul_right w hs
    _ = w * h := Nat.mul_comm h w

/-- Every raster pixel of a whole frame can be decoded. -/
theorem rasterPixel_of_written {f : PixelFormat} {s : State} {p : Nat}
    (hw : Written s.fb (frameSize s.w s.h)) (hn : frameSize s.w s.h ≤ Config.fbCapacity)
    (hp : p < s.w.toNat * s.h.toNat) (hf : f = .yuv422 → s.w.toNat % 2 = 0) :
    ∃ q, rasterPixel f s p = .ok q := by
  rw [frameSize_eq, Nat.mul_comm] at hw hn
  refine pix_of_written hw hn (source_lt s.flip hp) fun h => ?_
  rw [Nat.mul_mod, hf h]
  simp

/-- What the raster loop answers: three bytes for each pixel, in raster order (rules R52, R186). -/
theorem rasterBytes_spec {f : PixelFormat} {s : State} {n p : Nat} {bytes : List Byte}
    (h : rasterBytes f s n p = .ok bytes) :
    bytes.length = 3 * n ∧ ∀ k, k < n → ∃ q, rasterPixel f s (p + k) = .ok q ∧
      bytes[3 * k]? = some q.r ∧ bytes[3 * k + 1]? = some q.g ∧ bytes[3 * k + 2]? = some q.b := by
  induction n generalizing p bytes with
  | zero =>
    cases h
    exact ⟨rfl, fun k hk => absurd hk (Nat.not_lt_zero k)⟩
  | succ n ih =>
    simp only [rasterBytes, except_bind_eq_ok] at h
    obtain ⟨q, hq, rest, hrest, hb⟩ := h
    cases hb
    obtain ⟨hlen, hall⟩ := ih hrest
    have h3 : q.bytes.length = 3 := rfl
    refine ⟨by rw [List.length_append, h3, hlen]; omega, fun k hk => ?_⟩
    cases k with
    | zero => exact ⟨q, hq, rfl, rfl, rfl⟩
    | succ k =>
      obtain ⟨q', hq', h0, h1, h2⟩ := hall k (by omega)
      refine ⟨q', by rwa [show p + (k + 1) = p + 1 + k by omega], ?_, ?_, ?_⟩
      · rwa [List.getElem?_append_right (by omega), h3,
          show 3 * (k + 1) - 3 = 3 * k by omega]
      · rwa [List.getElem?_append_right (by omega), h3,
          show 3 * (k + 1) + 1 - 3 = 3 * k + 1 by omega]
      · rwa [List.getElem?_append_right (by omega), h3,
          show 3 * (k + 1) + 2 - 3 = 3 * k + 2 by omega]

/-- The raster loop answers when every pixel does. -/
theorem rasterBytes_exists {f : PixelFormat} {s : State} {n p : Nat}
    (h : ∀ k, k < n → ∃ q, rasterPixel f s (p + k) = .ok q) : ∃ bytes, rasterBytes f s n p = .ok bytes := by
  induction n generalizing p with
  | zero => exact ⟨[], rfl⟩
  | succ n ih =>
    obtain ⟨q, hq⟩ := h 0 (Nat.succ_pos n)
    obtain ⟨rest, hrest⟩ := ih (p := p + 1) fun k hk => by
      have := h (k + 1) (by omega)
      rwa [show p + (k + 1) = p + 1 + k by omega] at this
    exact ⟨q.bytes ++ rest, by simp only [rasterBytes, except_bind_eq_ok]; exact ⟨q, hq, rest, hrest, rfl⟩⟩

end Sys2Proof.Machine
end

