-- ==== Sys2Proof/Laws/Commands.lean ====
section
/-! SUPPORT. What each command can do, said once: if it answers a next state, which states that can be. -/

namespace Sys2Proof.Machine

open Sys2Proof

/-- SET_GEOM stores a legal geometry and discards a partial frame, or changes nothing (rule R211). -/
theorem execSetGeom_cases (w h : BitVec 16) (s : State) :
    legalGeometry w h = true ∧ execSetGeom w h s = .next ((s.setGeometry w h).answer .ok 0) ∨
      legalGeometry w h = false ∧ execSetGeom w h s = .next (s.answer .badConfig 0) := by
  rw [execSetGeom]
  cases legalGeometry w h <;> simp

/-- What a legal geometry is (rules R30, R211). -/
theorem legalGeometry_iff (w h : BitVec 16) :
    legalGeometry w h = true ↔ w ≠ 0 ∧ h ≠ 0 ∧ frameSize w h ≤ Config.fbCapacity := by
  rw [legalGeometry, Bool.and_eq_true, Bool.and_eq_true, fitsFb_iff]
  simp [and_assoc]

/-- RX_BYTE is refused, or stores its byte and completes the frame, or stores it and counts it (rule R101). -/
theorem execRxByte_cases {b : Byte} {s t : State} (h : execRxByte b s = .next t) :
    s.frameReady = true ∧ t = s.answer .busy 0 ∨
      s.frameReady = false ∧ s.count.toNat < Config.fbCapacity ∧
        (s.count.toNat + 1 = frameSize s.w s.h ∧
            t = (({ s with fb := Memory.write s.fb s.count.toNat b } : State).completeFrame
              (frameSize s.w s.h)).answer .frameDone 0 ∨
          s.count.toNat + 1 ≠ frameSize s.w s.h ∧
            t = ({ s with fb := Memory.write s.fb s.count.toNat b, count := s.count + 1 } : State).answer
              .ok 0) := by
  rw [execRxByte] at h
  split at h
  · rename_i hr
    exact .inl ⟨hr, by simpa using h.symm⟩
  · rename_i hr
    obtain ⟨u, hu, h⟩ := onOk_eq_next.mp h
    obtain ⟨hc, rfl⟩ := writeFb_eq_ok.mp hu
    refine .inr ⟨by simpa using hr, hc, ?_⟩
    simp only [countByte] at h
    split at h
    · rename_i he
      exact .inl ⟨he, by simpa using h.symm⟩
    · rename_i he
      exact .inr ⟨he, by simpa using h.symm⟩

/-- RX_END is refused, or discards the partial frame (rule R103). -/
theorem execRxEnd_cases (s : State) :
    s.frameReady = true ∧ execRxEnd s = .next (s.answer .busy 0) ∨
      s.frameReady = false ∧ execRxEnd s = .next (s.discardPartial.answer .incompleteFrame 0) := by
  rw [execRxEnd]
  cases s.frameReady <;> simp

/-- The raster loop writes the raster whole, with the dimensions in force (rule R186). -/
theorem decodeRaster_spec {f : PixelFormat} {s t : State} (h : decodeRaster f s = .next t) :
    ∃ bytes, rasterBytes f s (s.w.toNat * s.h.toNat) 0 = .ok bytes ∧
      bytes.length ≤ Config.rasterCapacity ∧
      t = ({ s with raster := Memory.writeBytes s.raster 0 bytes } : State).validateRaster.answer .ok 0 := by
  rw [decodeRaster] at h
  obtain ⟨bytes, hb, h⟩ := onOk_eq_next.mp h
  obtain ⟨u, hu, h⟩ := onOk_eq_next.mp h
  obtain ⟨hl, rfl⟩ := writeRaster_eq_ok.mp hu
  exact ⟨bytes, hb, hl, by simpa using h.symm⟩

/-- The raster loop completes when the whole frame is written and the raster fits. -/
theorem decodeRaster_completes {f : PixelFormat} {s : State} (hw : Written s.fb (frameSize s.w s.h))
    (hn : frameSize s.w s.h ≤ Config.fbCapacity) (hf : f = .yuv422 → s.w.toNat % 2 = 0) :
    Completes (decodeRaster f s) := by
  obtain ⟨bytes, hb⟩ := rasterBytes_exists (f := f) (s := s) (n := s.w.toNat * s.h.toNat) (p := 0)
    fun k hk => rasterPixel_of_written hw hn (by omega) hf
  have hl : bytes.length ≤ Config.rasterCapacity := by
    rw [(rasterBytes_spec hb).1]
    exact raster_fits hn
  have hwr := (writeRaster_eq_ok (s := s)).mpr ⟨hl, rfl⟩
  exact ⟨_, by rw [decodeRaster, hb, onOk_ok, hwr, onOk_ok, respond_eq]⟩

/-- DECODE finds no frame, or consumes it and fails with the first check that applies, or decodes it (rules
R180 to R185, R250). -/
theorem execDecodeFrame_cases (s : State) :
    s.frameReady = false ∧ execDecodeFrame s = .next (s.answer .noFrame 0) ∨
      s.frameReady = true ∧
        (s.modeValid = false ∧
            execDecodeFrame s = .next (s.consumeFrame.invalidateRaster.answer .notConfigured 0) ∨
          s.modeValid = true ∧ formatOfCode s.fmt = none ∧
            execDecodeFrame s = .next (s.consumeFrame.invalidateRaster.answer .unsupportedFormat 0) ∨
          ∃ f, s.modeValid = true ∧ formatOfCode s.fmt = some f ∧
            (s.fbLen.toNat ≠ frameSize s.w s.h ∧
                execDecodeFrame s = .next (s.consumeFrame.invalidateRaster.answer .sizeMismatch 0) ∨
              s.fbLen.toNat = frameSize s.w s.h ∧ f = .yuv422 ∧ s.w.toNat % 2 = 1 ∧
                execDecodeFrame s = .next (s.consumeFrame.invalidateRaster.answer .badConfig 0) ∨
              s.fbLen.toNat = frameSize s.w s.h ∧ ¬ (f = .yuv422 ∧ s.w.toNat % 2 = 1) ∧
                execDecodeFrame s = decodeRaster f s.consumeFrame)) := by
  cases hr : s.frameReady
  · simp [execDecodeFrame, hr]
  · refine .inr ⟨rfl, ?_⟩
    have he : execDecodeFrame s = decodeTaken s.fbLen.toNat s.consumeFrame := by
      simp [execDecodeFrame, hr]
    cases hm : s.modeValid
    · exact .inl ⟨rfl, by simp [he, decodeTaken, hm]⟩
    · refine .inr ?_
      cases hf : formatOfCode s.fmt with
      | none => exact .inl ⟨rfl, rfl, by simp [he, decodeTaken, hm, hf]⟩
      | some f =>
        refine .inr ⟨f, rfl, rfl, ?_⟩
        by_cases hl : s.fbLen.toNat = frameSize s.w s.h
        · by_cases hp : f = .yuv422 ∧ s.w.toNat % 2 = 1
          · exact .inr (.inl ⟨hl, hp.1, hp.2, by simp [he, decodeTaken, hm, hf, hl, hp]⟩)
          · exact .inr (.inr ⟨hl, hp, by simp [he, decodeTaken, hm, hf, hl, hp]⟩)
        · exact .inl ⟨hl, by simp [he, decodeTaken, hm, hf, hl]⟩

/-- RD_PIXEL is refused, or answers the pixel and changes nothing (rule R190). -/
theorem execRdPixel_cases {p : Nat} {s t : State} (h : execRdPixel p s = .next t) :
    s.rasterValid = false ∧ t = s.answer .noRaster 0 ∨
      s.rasterValid = true ∧ s.rastW.toNat * s.rastH.toNat ≤ p ∧ t = s.answer .range 0 ∨
      s.rasterValid = true ∧ p < s.rastW.toNat * s.rastH.toNat ∧
        ∃ q, readPixel s p = .ok q ∧ t = s.answer .ok (pixResult q) := by
  rw [execRdPixel] at h
  split at h
  · rename_i hr
    exact .inl ⟨hr, by simpa using h.symm⟩
  · rename_i hr
    have hr' : s.rasterValid = true := by simpa using hr
    split at h
    · rename_i hp
      exact .inr (.inl ⟨hr', hp, by simpa using h.symm⟩)
    · rename_i hp
      obtain ⟨q, hq, h⟩ := onOk_eq_next.mp h
      exact .inr (.inr ⟨hr', by omega, q, hq, by simpa using h.symm⟩)

/-- A step takes the next input, or is idle (rules R12, R259). -/
theorem step_cases (s : State) :
    s.inputs = [] ∧ step s = .next s ∨
      (∃ rest, s.inputs = .reset :: rest ∧
        step s = .next ({ s with inputs := rest } : State).hardReset) ∨
      (∃ c rest e, s.inputs = .command c :: rest ∧ decode c = .error e ∧
        step s = .next (({ s with inputs := rest } : State).answer .illegalCmd 0)) ∨
      ∃ c rest i, s.inputs = .command c :: rest ∧ decode c = .ok i ∧
        step s = exec i { s with inputs := rest } := by
  cases hs : s.inputs with
  | nil => simp [step, stepInputs, hs]
  | cons x rest =>
    cases x with
    | reset => simp [step, stepInputs, hs, runInput]
    | command c =>
      cases hd : decode c with
      | error e => simp [step, stepInputs, hs, runInput, runWord, hd]
      | ok i => simp [step, stepInputs, hs, runInput, runWord, hd]

end Sys2Proof.Machine
end

