-- ==== Sys2Proof/Laws/Encoding.lean ====
section
/-! SUPPORT. What the decoder and the encoder do, said once: the fields of an encoded word, and when a word decodes (rules
R70, R71, R74, R75). -/

namespace Sys2Proof

/-- The three fields of an encoded command (rule R70). -/
theorem encode_fields (i : Instr) :
    opField (encode i) = i.opcode.code ∧ rsvField (encode i) = 0 ∧ argField (encode i) = i.arg := by
  unfold encode opField rsvField argField
  generalize i.opcode.code = o
  generalize i.arg = a
  refine ⟨?_, ?_, ?_⟩ <;>
    · ext j hj
      simp only [BitVec.getElem_extractLsb', BitVec.getLsbD_append]
      grind

/-- Each row is found by its own OP. -/
@[simp] theorem Opcode.ofCode_code (o : Opcode) : Opcode.ofCode o.code = some o := by
  cases o <;> rfl

/-- A row that is found by an OP has that OP. -/
theorem Opcode.eq_code_of_ofCode {b : BitVec 8} {o : Opcode} (h : Opcode.ofCode b = some o) : b = o.code := by
  have h' := List.find?_some h
  simp only [beq_iff_eq] at h'
  exact h'.symm

/-- The command that a row and an operand field make is of that row. -/
@[simp] theorem assemble_opcode (o : Opcode) (a : BitVec 32) : (assemble o a).opcode = o := by
  cases o <;> rfl

/-- A word decodes exactly when RSV is 0, its OP has a row and it selects that row; it is then the command of the row
and of its operand field (rule R75). -/
theorem decode_eq_ok_iff {c : CmdWord} {i : Instr} :
    decode c = .ok i ↔
      rsvField c = 0 ∧ ∃ o, opField c = o.code ∧ c &&& o.mask = o.matchWord ∧ i = assemble o (argField c) := by
  constructor
  · intro h
    rw [decode] at h
    by_cases hr : rsvField c = 0
    · cases ho : Opcode.ofCode (opField c) with
      | none => simp [hr, ho] at h
      | some o =>
        by_cases hm : c &&& o.mask = o.matchWord
        · simp only [hr, ho, hm, ne_eq, not_true_eq_false, if_false, Except.ok.injEq] at h
          exact ⟨hr, o, Opcode.eq_code_of_ofCode ho, hm, h.symm⟩
        · simp [hr, ho, hm] at h
    · rw [if_pos hr] at h
      cases h
  · rintro ⟨hr, o, ho, hm, rfl⟩
    simp [decode, hr, ho, hm]

end Sys2Proof
end

