-- ==== Sys2Proof/Laws/Faults.lean ====
section
/-! SUPPORT. When a memory access, a pixel, the raster loop or a command stops, said once (rules R51, R52; log entries 3
and 5). -/

namespace Sys2Proof.Machine

open Sys2Proof

/-- A read of FB stops exactly at a byte that does not exist or that nothing has written. -/
theorem readFb_eq_error {s : State} {i : Nat} {e : Fault} :
    readFb s i = .error e ↔
      Config.fbCapacity ≤ i ∧ e = .fbOutOfRange ∨
        i < Config.fbCapacity ∧ Memory.read s.fb i = none ∧ e = .fbUnwritten := by
  rw [← Nat.not_lt, ← fbExists_iff, readFb]
  split
  · split <;> simp_all
    exact eq_comm
  · simp_all
    exact eq_comm

/-- A write to FB stops exactly at a byte that does not exist. -/
theorem writeFb_eq_error {s : State} {i : Nat} {v : Byte} {e : Fault} :
    writeFb s i v = .error e ↔ Config.fbCapacity ≤ i ∧ e = .fbOutOfRange := by
  rw [← Nat.not_lt, ← fbExists_iff, writeFb]
  split <;> simp_all
  exact eq_comm

/-- A read of RASTER stops exactly at a byte that does not exist or that nothing has written. -/
theorem readRaster_eq_error {s : State} {i : Nat} {e : Fault} :
    readRaster s i = .error e ↔
      Config.rasterCapacity ≤ i ∧ e = .rasterOutOfRange ∨
        i < Config.rasterCapacity ∧ Memory.read s.raster i = none ∧ e = .rasterUnwritten := by
  rw [← Nat.not_lt, ← rasterExists_iff, readRaster]
  split
  · split <;> simp_all
    exact eq_comm
  · simp_all
    exact eq_comm

/-- A write of the raster that does not answer stops because the raster does not fit. -/
theorem writeRaster_error {s : State} {vs : List Byte} {e : Fault} (h : writeRaster s vs = .error e) :
    Config.rasterCapacity < vs.length ∧ e = .rasterOutOfRange := by
  refine ⟨Nat.lt_of_not_le fun hl => ?_, ?_⟩
  · rw [writeRaster_eq_ok.mpr ⟨hl, rfl⟩] at h
    cases h
  · rw [writeRaster] at h
    split at h
    · cases h
    · exact (Except.error.inj h).symm

/-- A sequence of two accesses stops where one of them does. -/
theorem except_bind_eq_error {α β : Type} {x : Except Fault α} {k : α → Except Fault β} {e : Fault} :
    (x >>= k) = .error e ↔ x = .error e ∨ ∃ a, x = .ok a ∧ k a = .error e := by
  cases x <;> simp [bind, Except.bind]

/-- A memory access stops a command when it stops, or when what follows it does. -/
theorem onOk_eq_fault {α : Type} {x : Except Fault α} {k : α → Outcome} {e : Fault} :
    onOk x k = .fault e ↔ x = .error e ∨ ∃ a, x = .ok a ∧ k a = .fault e := by
  cases x <;> simp

/-- An RGB565 pixel stops only at one of the two bytes of its sample. -/
theorem pix565_error {s : State} {i : Nat} {e : Fault} (h : pix565 s i = .error e) :
    readFb s (2 * i) = .error e ∨ readFb s (2 * i + 1) = .error e := by
  simp only [pix565, fbWord, except_bind_eq_error, except_bind_eq_ok] at h
  rcases h with (h | ⟨_, _, h | ⟨_, _, h⟩⟩) | ⟨_, _, h⟩
  · exact .inl h
  · exact .inr h
  · cases h
  · cases h

/-- A YUV422 pixel stops only at its luma byte or at a chroma byte of its group. -/
theorem pixYuv_error {s : State} {i : Nat} {e : Fault} (h : pixYuv s i = .error e) :
    readFb s (2 * i) = .error e ∨ readFb s (4 * (i / 2) + 1) = .error e ∨
      readFb s (4 * (i / 2) + 3) = .error e := by
  simp only [pixYuv, except_bind_eq_error] at h
  rcases h with h | ⟨_, _, h | ⟨_, _, h | ⟨_, _, h⟩⟩⟩
  · exact .inl h
  · exact .inr (.inl h)
  · exact .inr (.inr h)
  · cases h

/-- A LUMA8 pixel stops only at its luma byte. -/
theorem pixLuma_error {s : State} {i : Nat} {e : Fault} (h : pixLuma s i = .error e) :
    readFb s (2 * i) = .error e := by
  simp only [pixLuma, except_bind_eq_error] at h
  rcases h with h | ⟨_, _, h⟩
  · exact h
  · cases h

/-- An RGB565 pixel that answers has read both bytes of its sample. -/
theorem pix565_reads {s : State} {i : Nat} {q : Rgb} (h : pix565 s i = .ok q) :
    (∃ b, readFb s (2 * i) = .ok b) ∧ ∃ b, readFb s (2 * i + 1) = .ok b := by
  simp only [pix565, fbWord, except_bind_eq_ok] at h
  obtain ⟨_, ⟨lo, hlo, hi, hhi, _⟩, _⟩ := h
  exact ⟨⟨lo, hlo⟩, hi, hhi⟩

/-- A YUV422 pixel that answers has read its luma byte and both chroma bytes of its group. -/
theorem pixYuv_reads {s : State} {i : Nat} {q : Rgb} (h : pixYuv s i = .ok q) :
    (∃ b, readFb s (2 * i) = .ok b) ∧ (∃ b, readFb s (4 * (i / 2) + 1) = .ok b) ∧
      ∃ b, readFb s (4 * (i / 2) + 3) = .ok b := by
  simp only [pixYuv, except_bind_eq_ok] at h
  obtain ⟨y, hy, u, hu, v, hv, _⟩ := h
  exact ⟨⟨y, hy⟩, ⟨u, hu⟩, v, hv⟩

/-- A LUMA8 pixel that answers has read its luma byte. -/
theorem pixLuma_reads {s : State} {i : Nat} {q : Rgb} (h : pixLuma s i = .ok q) :
    ∃ b, readFb s (2 * i) = .ok b := by
  simp only [pixLuma, except_bind_eq_ok] at h
  obtain ⟨y, hy, _⟩ := h
  exact ⟨y, hy⟩

/-- The raster loop stops only at a pixel that does. -/
theorem rasterBytes_error {f : PixelFormat} {s : State} {n p : Nat} {e : Fault}
    (h : rasterBytes f s n p = .error e) : ∃ k, k < n ∧ rasterPixel f s (p + k) = .error e := by
  induction n generalizing p with
  | zero => cases h
  | succ n ih =>
    simp only [rasterBytes, except_bind_eq_error] at h
    rcases h with h | ⟨q, _, h | ⟨rest, _, h⟩⟩
    · exact ⟨0, Nat.succ_pos n, h⟩
    · obtain ⟨k, hk, hp⟩ := ih h
      exact ⟨k + 1, by omega, by rwa [show p + (k + 1) = p + 1 + k by omega]⟩
    · cases h

/-- RX_BYTE stops exactly when it would write past FB. -/
theorem execRxByte_eq_fault {b : Byte} {s : State} {e : Fault} :
    execRxByte b s = .fault e ↔
      s.frameReady = false ∧ Config.fbCapacity ≤ s.count.toNat ∧ e = .fbOutOfRange := by
  rw [execRxByte]
  split
  · simp_all
  · rename_i hr
    rw [onOk_eq_fault, writeFb_eq_error]
    constructor
    · rintro (h | ⟨t, _, h⟩)
      · exact ⟨by simpa using hr, h⟩
      · simp only [countByte] at h
        split at h <;> cases h
    · exact fun h => .inl h.2

/-- A pixel of RASTER whose bytes exist is read unless one of them is unwritten. -/
theorem readPixel_eq_error {s : State} {p : Nat} {e : Fault} :
    readPixel s p = .error e ↔
      Config.rasterCapacity ≤ 3 * p ∧ e = .rasterOutOfRange ∨
        3 * p < Config.rasterCapacity ∧ (∃ k, k < 3 ∧ Memory.read s.raster (3 * p + k) = none) ∧
          e = .rasterUnwritten := by
  have hcap : 3 * p < Config.rasterCapacity → 3 * p + 2 < Config.rasterCapacity := by
    rw [Config.rasterCapacity]
    omega
  by_cases hp : Config.rasterCapacity ≤ 3 * p
  · have h0 : readRaster s (3 * p) = .error .rasterOutOfRange := readRaster_eq_error.mpr (.inl ⟨hp, rfl⟩)
    simp only [readPixel, h0, hp, Nat.not_lt.mpr hp, bind, Except.bind, Except.error.injEq, true_and, false_and,
      or_false]
    exact eq_comm
  · have hlt := Nat.lt_of_not_le hp
    have hread : ∀ k, k < 3 → readRaster s (3 * p + k) =
        (Memory.read s.raster (3 * p + k)).elim (.error .rasterUnwritten) .ok := fun k hk => by
      rw [readRaster, if_pos ((rasterExists_iff _).mpr (by have := hcap hlt; omega))]
      cases Memory.read s.raster (3 * p + k) <;> rfl
    have h0 := hread 0 (by decide)
    have h1 := hread 1 (by decide)
    have h2 := hread 2 (by decide)
    rw [Nat.add_zero] at h0
    simp only [readPixel, h0, h1, h2, hp, hlt, false_and, false_or, true_and]
    have h3 : (∃ k, k < 3 ∧ Memory.read s.raster (3 * p + k) = none) ↔
        Memory.read s.raster (3 * p) = none ∨ Memory.read s.raster (3 * p + 1) = none ∨
          Memory.read s.raster (3 * p + 2) = none := by
      constructor
      · rintro ⟨k, hk, h⟩
        obtain rfl | rfl | rfl : k = 0 ∨ k = 1 ∨ k = 2 := by omega
        · exact .inl h
        · exact .inr (.inl h)
        · exact .inr (.inr h)
      · rintro (h | h | h)
        · exact ⟨0, by decide, h⟩
        · exact ⟨1, by decide, h⟩
        · exact ⟨2, by decide, h⟩
    rw [h3]
    cases Memory.read s.raster (3 * p) <;> cases Memory.read s.raster (3 * p + 1) <;>
      cases Memory.read s.raster (3 * p + 2) <;> simp [bind, Except.bind, eq_comm]

/-- The raster loop of DECODE stops at a pixel that does, or because the raster does not fit. -/
theorem decodeRaster_fault {f : PixelFormat} {s : State} {e : Fault} (h : decodeRaster f s = .fault e) :
    (∃ p, p < s.w.toNat * s.h.toNat ∧ rasterPixel f s p = .error e) ∨
      (∀ p, p < s.w.toNat * s.h.toNat → ∃ q, rasterPixel f s p = .ok q) ∧
        Config.rasterCapacity < 3 * (s.w.toNat * s.h.toNat) ∧ e = .rasterOutOfRange := by
  rw [decodeRaster, onOk_eq_fault] at h
  rcases h with h | ⟨bytes, hb, h⟩
  · obtain ⟨k, hk, hp⟩ := rasterBytes_error h
    exact .inl ⟨k, hk, by rwa [Nat.zero_add] at hp⟩
  · rcases onOk_eq_fault.mp h with h | ⟨t, _, h⟩
    · obtain ⟨hlen, hall⟩ := rasterBytes_spec hb
      obtain ⟨hl, he⟩ := writeRaster_error h
      refine .inr ⟨fun p hp => ?_, hlen ▸ hl, he⟩
      obtain ⟨q, hq, _⟩ := hall p hp
      exact ⟨q, by rwa [Nat.zero_add] at hq⟩
    · cases h

/-- The raster loop of DECODE answers a next state or a fault. -/
theorem decodeRaster_next_or_fault (f : PixelFormat) (s : State) :
    (∃ t, decodeRaster f s = .next t) ∨ ∃ e, decodeRaster f s = .fault e := by
  rw [decodeRaster]
  cases rasterBytes f s (s.w.toNat * s.h.toNat) 0 with
  | error e => exact .inr ⟨e, rfl⟩
  | ok bytes =>
    rw [onOk_ok]
    cases writeRaster s bytes with
    | error e => exact .inr ⟨e, rfl⟩
    | ok t => exact .inl ⟨_, rfl⟩

end Sys2Proof.Machine
end

