-- ==== Sys2Proof/Laws/Numeric.lean ====
section
/-! SUPPORT. The integer facts behind the pixel functions: saturation, rounding, and bytes as integers. -/

namespace Sys2Proof.Machine

open Sys2Proof

theorem asr_eq (a : Int) (n : Nat) : asr a n = a / 2 ^ n := rfl

theorem asr_eight (a : Int) : asr a 8 = a / 256 := rfl

/-- The clipper answers a value of a byte (rule R140). -/
theorem clip8_bounds (x : Int) : 0 ≤ clip8 x ∧ clip8 x ≤ 255 := by
  rw [clip8]
  omega

/-- An integer in 0..255 is the byte it becomes. -/
theorem byteOfInt_toNat {x : Int} (h0 : 0 ≤ x) (h1 : x ≤ 255) : ((byteOfInt x).toNat : Int) = x := by
  rw [byteOfInt, BitVec.toNat_ofInt]
  omega

/-- A number below 256 is the byte it becomes. -/
theorem byteOfInt_ofNat_toNat {n : Nat} (h : n < 256) : (byteOfInt (n : Int)).toNat = n := by
  rw [byteOfInt, BitVec.toNat_ofInt]
  omega

/-- A saturated value is the byte it becomes (rule R145). -/
theorem byteOfInt_clip8_toNat (x : Int) : ((byteOfInt (clip8 x)).toNat : Int) = clip8 x :=
  byteOfInt_toNat (clip8_bounds x).1 (clip8_bounds x).2

theorem field5R_lt (w : Sample) : field5R w < 32 := (w.extractLsb' 11 5).isLt

theorem field6G_lt (w : Sample) : field6G w < 64 := (w.extractLsb' 5 6).isLt

theorem field5B_lt (w : Sample) : field5B w < 32 := (w.extractLsb' 0 5).isLt

/-- The three channels of the shift expansion as numbers (rule R121). -/
theorem expandShift_toNat (w : Sample) :
    (expandShift w).r.toNat = 8 * field5R w ∧ (expandShift w).g.toNat = 4 * field6G w ∧
      (expandShift w).b.toNat = 8 * field5B w := by
  have hr := byteOfInt_ofNat_toNat (n := field5R w * 2 ^ 3) (by have := field5R_lt w; omega)
  have hg := byteOfInt_ofNat_toNat (n := field6G w * 2 ^ 2) (by have := field6G_lt w; omega)
  have hb := byteOfInt_ofNat_toNat (n := field5B w * 2 ^ 3) (by have := field5B_lt w; omega)
  simp only [Nat.cast_mul, Nat.cast_pow, Nat.cast_ofNat] at hr hg hb
  exact ⟨hr.trans (Nat.mul_comm _ _), hg.trans (Nat.mul_comm _ _), hb.trans (Nat.mul_comm _ _)⟩

/-- The three channels of the proportional expansion as numbers (rule R122). -/
theorem expandProp_toNat (w : Sample) :
    (expandProp w).r.toNat = field5R w * 255 / 31 ∧ (expandProp w).g.toNat = field6G w * 255 / 63 ∧
      (expandProp w).b.toNat = field5B w * 255 / 31 := by
  have hr := byteOfInt_ofNat_toNat (n := field5R w * 255 / 31) (by have := field5R_lt w; omega)
  have hg := byteOfInt_ofNat_toNat (n := field6G w * 255 / 63) (by have := field6G_lt w; omega)
  have hb := byteOfInt_ofNat_toNat (n := field5B w * 255 / 31) (by have := field5B_lt w; omega)
  push_cast at hr hg hb
  exact ⟨hr, hg, hb⟩

/-- The three channels of the YUV conversion as numbers (rule R145). -/
theorem yuv2rgb_toNat (y u v : Byte) :
    ((yuv2rgb y u v).r.toNat : Int) = clip8 (asr (accR y u v) 8) ∧
      ((yuv2rgb y u v).g.toNat : Int) = clip8 (asr (accG y u v) 8) ∧
      ((yuv2rgb y u v).b.toNat : Int) = clip8 (asr (accB y u v) 8) :=
  ⟨byteOfInt_clip8_toNat _, byteOfInt_clip8_toNat _, byteOfInt_clip8_toNat _⟩

/-- The three fields of a sample as numbers (rule R120). -/
theorem fields_toNat (w : Sample) :
    field5R w = w.toNat / 2048 ∧ field6G w = w.toNat / 32 % 64 ∧ field5B w = w.toNat % 32 := by
  have hl := w.isLt
  simp only [field5R, field6G, field5B, BitVec.extractLsb'_toNat, Nat.shiftRight_eq_div_pow]
  refine ⟨by omega, by norm_num, ?_⟩
  norm_num

/-- A sample of two bytes is little-endian (rule R53). -/
theorem sample_toNat (lo hi : Byte) : BitVec.toNat (w := 16) (hi ++ lo) = lo.toNat + 256 * hi.toNat := by
  show BitVec.toNat (w := 8 + 8) (hi ++ lo) = _
  rw [BitVec.toNat_append, ← Nat.shiftLeft_add_eq_or_of_lt lo.isLt, Nat.shiftLeft_eq]
  omega

/-- The number a PIX result is (rule R72). -/
theorem pixResult_toNat (q : Rgb) :
    (pixResult q).toNat = 65536 * q.r.toNat + 256 * q.g.toNat + q.b.toNat := by
  have hb := q.b.isLt
  show BitVec.toNat (w := 40 + 8 + 8 + 8) (0#40 ++ q.r ++ q.g ++ q.b) = _
  rw [BitVec.toNat_append, ← Nat.shiftLeft_add_eq_or_of_lt q.b.isLt, BitVec.toNat_append,
    ← Nat.shiftLeft_add_eq_or_of_lt q.g.isLt, BitVec.toNat_append, ← Nat.shiftLeft_add_eq_or_of_lt q.r.isLt]
  simp only [Nat.shiftLeft_eq, BitVec.toNat_ofNat]
  omega

/-- The number a U8 result is (rule R72). -/
theorem u8Result_toNat (x : Int) : (u8Result x).toNat = (byteOfInt x).toNat := by
  show BitVec.toNat (w := 56 + 8) (0#56 ++ byteOfInt x) = _
  rw [BitVec.toNat_append]
  simp

end Sys2Proof.Machine
end

