-- ==== Sys2Proof/Laws/PerInstr.lean ====
section
/-! SUPPORT. The statements made per instruction: the word of every command leaves every reserved bit 0, so that it
selects its own row of the opcode map (rules R71, R74). -/

namespace Sys2Proof.Laws

open Sys2Proof

/-- The operand field of the command has no bit that its format marks 0, and its word selects its own row. -/
def Selects.Statement (i : Instr) : Prop :=
  i.arg &&& i.opcode.format.reservedBits = 0 ∧ encode i &&& i.opcode.mask = i.opcode.matchWord

/-- Masking a word field by field. -/
theorem Selects.maskFields (c : BitVec 8) (a m : BitVec 32) (h : a &&& m = 0) :
    (c ++ 0#24 ++ a) &&& (0xFF#8 ++ 0xFFFFFF#24 ++ m) = c ++ 0#24 ++ 0#32 := by
  rw [BitVec.and_append, BitVec.and_append, h, BitVec.zero_and]
  exact congrArg (fun b : BitVec 8 => b ++ 0#24 ++ 0#32) BitVec.and_allOnes

/-- A word with RSV = 0 whose operand field has no reserved bit selects its row. -/
theorem Selects.ofArg {i : Instr} (h : i.arg &&& i.opcode.format.reservedBits = 0) : Selects.Statement i :=
  ⟨h, Selects.maskFields i.opcode.code i.arg i.opcode.format.reservedBits h⟩

theorem Selects.setGeom (w h : BitVec 16) : Selects.Statement (.setGeom w h) := Selects.ofArg BitVec.and_zero

theorem Selects.setMode (fmt : BitVec 2) (exp flip : Bool) : Selects.Statement (.setMode fmt exp flip) :=
  Selects.ofArg (by
    show (0#28 ++ BitVec.ofBool flip ++ BitVec.ofBool exp ++ fmt : BitVec 32) &&&
      (0xFFFFFFF#28 ++ 0#1 ++ 0#1 ++ 0#2 : BitVec 32) = 0
    simp only [BitVec.and_append, BitVec.and_zero, BitVec.zero_and]
    rfl)

theorem Selects.getCfg : Selects.Statement .getCfg := Selects.ofArg rfl

theorem Selects.getStatus : Selects.Statement .getStatus := Selects.ofArg rfl

theorem Selects.getFblen : Selects.Statement .getFblen := Selects.ofArg rfl

theorem Selects.getRdim : Selects.Statement .getRdim := Selects.ofArg rfl

/-- An operand byte alone in the field A sets no bit above it. -/
theorem Selects.byteArg (b : Byte) : (0#24 ++ b : BitVec 32) &&& 0xFFFFFF00#32 = 0 := by
  show (0#24 ++ b : BitVec 32) &&& (0xFFFFFF#24 ++ 0#8 : BitVec 32) = 0
  simp only [BitVec.and_append, BitVec.and_zero, BitVec.zero_and]
  rfl

/-- A sample alone in the field A sets no bit above it. -/
theorem Selects.sampleArg (w : Sample) : (0#16 ++ w : BitVec 32) &&& 0xFFFF0000#32 = 0 := by
  show (0#16 ++ w : BitVec 32) &&& (0xFFFF#16 ++ 0#16 : BitVec 32) = 0
  simp only [BitVec.and_append, BitVec.and_zero, BitVec.zero_and]
  rfl

theorem Selects.rxByte (b : Byte) : Selects.Statement (.rxByte b) := Selects.ofArg (Selects.byteArg b)

theorem Selects.rxEnd : Selects.Statement .rxEnd := Selects.ofArg rfl

theorem Selects.decodeFrame : Selects.Statement .decodeFrame := Selects.ofArg rfl

theorem Selects.rdPixel (p : Nat) : Selects.Statement (.rdPixel p) := Selects.ofArg BitVec.and_zero

theorem Selects.fnClip8 (x : Int) : Selects.Statement (.fnClip8 x) := Selects.ofArg BitVec.and_zero

theorem Selects.fnRshr8 (x : Int) : Selects.Statement (.fnRshr8 x) := Selects.ofArg BitVec.and_zero

theorem Selects.fnYuv2rgb (y u v : Byte) : Selects.Statement (.fnYuv2rgb y u v) :=
  Selects.ofArg (by
    show (0#8 ++ y ++ u ++ v : BitVec 32) &&& (0xFF#8 ++ 0#8 ++ 0#8 ++ 0#8 : BitVec 32) = 0
    simp only [BitVec.and_append, BitVec.and_zero, BitVec.zero_and]
    rfl)

theorem Selects.fn565s (w : Sample) : Selects.Statement (.fn565s w) := Selects.ofArg (Selects.sampleArg w)

theorem Selects.fn565p (w : Sample) : Selects.Statement (.fn565p w) := Selects.ofArg (Selects.sampleArg w)

theorem Selects.fnLuma (y : Byte) : Selects.Statement (.fnLuma y) := Selects.ofArg (Selects.byteArg y)

theorem Selects.fnYuyv2 (y0 u y1 v : Byte) : Selects.Statement (.fnYuyv2 y0 u y1 v) :=
  Selects.ofArg BitVec.and_zero

end Sys2Proof.Laws
end

