-- ==== Sys2Proof/Laws/Run.lean ====
section
/-! SUPPORT. Runs of the machine, one step at a time, and what a presented word does. -/

namespace Sys2Proof.Machine

open Sys2Proof

/-- A run of no step. -/
theorem run_zero (s : State) : core.run 0 s = .next s := rfl

/-- A run of any machine whose first step answers a next state goes on from it. -/
theorem run_succ_of (M : Host.Core) {n : Nat} {s t : M.State} (h : M.step s = .next t) :
    M.run (n + 1) s = M.run n t := by
  show (match M.step s with
    | .next u => M.run n u
    | .fault r => .fault r
    | .refused r => .refused r) = _
  rw [h]

/-- A run whose first step answers a next state goes on from it. -/
theorem run_succ {n : Nat} {s t : State} (h : step s = .next t) : core.run (n + 1) s = core.run n t :=
  run_succ_of core h

/-- A step whose next input is a word that decodes runs its command. -/
theorem step_command {s : State} {c : CmdWord} {i : Instr} {rest : List Input} (hs : s.inputs = .command c :: rest)
    (hc : decode c = .ok i) : step s = exec i { s with inputs := rest } := by
  simp [step, stepInputs, hs, runInput, runWord, hc]

end Sys2Proof.Machine
end

