-- ==== Sys2Proof/Tests/Slice0.lean ====
section
/-! SUPPORT. The model's own tests: small facts whose expected values stand in the spec (95_test_vectors.md and the rule files),
and a witness for the hypotheses of every statement that has any. -/

namespace Sys2Proof.Tests

open Sys2Proof Sys2Proof.Machine Sys2Proof.Reference

/-! ### Well-formedness -/

theorem test_index_of_33_bits_is_ill_formed : WellFormed (.rdPixel 4294967296) = false := by decide

theorem test_clip8_operand_above_s32_is_ill_formed : WellFormed (.fnClip8 2147483648) = false := by decide

theorem test_rshr8_operand_below_s32_is_ill_formed : WellFormed (.fnRshr8 (-2147483649)) = false := by decide

theorem test_operands_at_the_bounds_are_well_formed :
    WellFormed (.rdPixel 4294967295) = true ∧ WellFormed (.fnClip8 2147483647) = true ∧
      WellFormed (.fnRshr8 (-2147483648)) = true := by decide

/-! ### Decoding: words written out from 30_encoding.md and 95_test_vectors.md -/

/-- The match column of rule R74. -/
theorem test_match_column :
    Opcode.all.map Opcode.matchWord =
      [0x0100000000000000, 0x0200000000000000, 0x0300000000000000, 0x0400000000000000, 0x0500000000000000,
       0x0600000000000000, 0x1000000000000000, 0x1100000000000000, 0x2000000000000000, 0x2100000000000000,
       0x3000000000000000, 0x3100000000000000, 0x3200000000000000, 0x3300000000000000, 0x3400000000000000,
       0x3500000000000000, 0x3600000000000000] := by decide

/-- The mask column of rule R74. -/
theorem test_mask_column :
    Opcode.all.map Opcode.mask =
      [0xFFFFFFFF00000000, 0xFFFFFFFFFFFFFFF0, 0xFFFFFFFFFFFFFFFF, 0xFFFFFFFFFFFFFFFF, 0xFFFFFFFFFFFFFFFF,
       0xFFFFFFFFFFFFFFFF, 0xFFFFFFFFFFFFFF00, 0xFFFFFFFFFFFFFFFF, 0xFFFFFFFFFFFFFFFF, 0xFFFFFFFF00000000,
       0xFFFFFFFF00000000, 0xFFFFFFFF00000000, 0xFFFFFFFFFF000000, 0xFFFFFFFFFFFF0000, 0xFFFFFFFFFFFF0000,
       0xFFFFFFFFFFFFFF00, 0xFFFFFFFF00000000] := by decide

theorem test_decode_set_geom : decode 0x01000000014000F0 = .ok (.setGeom 320 240) := by rfl
theorem test_decode_set_mode : decode 0x020000000000000C = .ok (.setMode 0 true true) := by rfl
theorem test_decode_set_mode_yuv : decode 0x0200000000000001 = .ok (.setMode 1 false false) := by rfl
theorem test_decode_get_cfg : decode 0x0300000000000000 = .ok .getCfg := by rfl
theorem test_decode_get_status : decode 0x0400000000000000 = .ok .getStatus := by rfl
theorem test_decode_get_fblen : decode 0x0500000000000000 = .ok .getFblen := by rfl
theorem test_decode_get_rdim : decode 0x0600000000000000 = .ok .getRdim := by rfl
theorem test_decode_rx_byte : decode 0x10000000000000EB = .ok (.rxByte 0xEB) := by rfl
theorem test_decode_rx_end : decode 0x1100000000000000 = .ok .rxEnd := by rfl
theorem test_decode_decode : decode 0x2000000000000000 = .ok .decodeFrame := by rfl
theorem test_decode_rd_pixel : decode 0x2100000000000005 = .ok (.rdPixel 5) := by rfl
theorem test_decode_fn_clip8 : decode 0x30000000FFFFFEEB = .ok (.fnClip8 (-277)) := by rfl
theorem test_decode_fn_rshr8 : decode 0x310000000000FEEE = .ok (.fnRshr8 65262) := by rfl
theorem test_decode_fn_yuv2rgb : decode 0x3200000000515AF0 = .ok (.fnYuv2rgb 81 90 240) := by rfl
theorem test_decode_fn_565s : decode 0x330000000000F800 = .ok (.fn565s 0xF800) := by rfl
theorem test_decode_fn_565p : decode 0x3400000000008410 = .ok (.fn565p 0x8410) := by rfl
theorem test_decode_fn_luma : decode 0x35000000000000C0 = .ok (.fnLuma 192) := by rfl
theorem test_decode_fn_yuyv2 : decode 0x36000000F0915A51 = .ok (.fnYuyv2 81 90 145 240) := by rfl

/-- The illegal words of 95_test_vectors.md section 2.1, each with the line of rule R75 that refuses it. -/
theorem test_illegal_words_are_refused :
    decode 0x0000000000000000 = .error .unassignedOpcode ∧ decode 0x0700000000000000 = .error .unassignedOpcode ∧
      decode 0xFF00000000000000 = .error .unassignedOpcode ∧ decode 0x0300000100000000 = .error .reservedRsv ∧
      decode 0x0380000000000000 = .error .reservedRsv ∧ decode 0x0300000000000001 = .error .reservedOperandBit ∧
      decode 0x0200000000000010 = .error .reservedOperandBit ∧
      decode 0x1000000000000100 = .error .reservedOperandBit ∧
      decode 0x3200000001000000 = .error .reservedOperandBit ∧
      decode 0x3300000000010000 = .error .reservedOperandBit ∧
      decode 0x3500000000000100 = .error .reservedOperandBit :=
  ⟨rfl, rfl, rfl, rfl, rfl, rfl, rfl, rfl, rfl, rfl, rfl⟩

theorem test_table_word_is_decoded : decodeTableWord 64 0x01000000014000F0 = some (.setGeom 320 240) := by rfl

theorem test_table_word_of_no_row_is_refused : decodeTableWord 64 0x0700000000000000 = none := by rfl

/-! ### One command each, with the responses of 95_test_vectors.md -/

/-- The latest response after a command. -/
def answerOf (o : Outcome) : Option Response :=
  match o with
  | .next s => s.responses.head?
  | _ => none

/-- A field of the state after a command. -/
def fieldOf {α : Type} (f : State → α) (o : Outcome) : Option α :=
  match o with
  | .next s => some (f s)
  | _ => none

/-- Reset, then SET_GEOM 2, 1 and a SET_MODE. -/
def ready (fmt : BitVec 2) (exp flip : Bool) : State :=
  { State.reset with w := 2, h := 1, fmt := fmt, exp := exp, flip := flip, modeValid := true }

/-- `ready` with the frame 235, 128, 16, 128 of program P1 held. -/
def held (fmt : BitVec 2) (flip : Bool) : State :=
  { ready fmt false flip with
    frameReady := true, fbLen := 4, fb := [(0, 235), (1, 128), (2, 16), (3, 128)] }

/-- `ready` with the two pixels white, black of program P1 in the raster. -/
def decoded : State :=
  { ready 1 false false with
    rasterValid := true, rastW := 2, rastH := 1,
    raster := [(0, 255), (1, 255), (2, 255), (3, 0), (4, 0), (5, 0)] }

theorem test_set_geom_stores : exec (.setGeom 1 2) State.reset =
    .next { State.reset with w := 1, h := 2, responses := [⟨.ok, 0⟩] } := by rfl

theorem test_set_geom_zero_width_is_bad : exec (.setGeom 0 240) State.reset =
    .next { State.reset with responses := [⟨.badConfig, 0⟩] } := by rfl

theorem test_set_mode_stores_format_three : exec (.setMode 3 false false) State.reset =
    .next { State.reset with fmt := 3, modeValid := true, responses := [⟨.ok, 0⟩] } := by rfl

theorem test_get_cfg_at_reset : answerOf (exec .getCfg State.reset) = some ⟨.ok, 0x00000000014000F0⟩ := by rfl

theorem test_get_cfg_after_mode :
    answerOf (exec .getCfg (ready 2 true true)) = some ⟨.ok, 0x0000000E00020001⟩ := by rfl

theorem test_get_status_of_partial_frame :
    answerOf (exec .getStatus { ready 2 false false with count := 3 }) = some ⟨.ok, 0x0000000300000004⟩ := by rfl

theorem test_get_status_of_held_frame :
    answerOf (exec .getStatus (held 1 false)) = some ⟨.ok, 0x0000000000000005⟩ := by rfl

theorem test_get_fblen_of_held_frame :
    answerOf (exec .getFblen (held 1 false)) = some ⟨.ok, 0x0000000000000004⟩ := by rfl

theorem test_get_rdim_of_raster : answerOf (exec .getRdim decoded) = some ⟨.ok, 0x0000000000020001⟩ := by rfl

theorem test_rx_byte_completes_frame :
    exec (.rxByte 128) { ready 1 false false with count := 3, fb := [(0, 235), (1, 128), (2, 16)] } =
      .next { held 1 false with responses := [⟨.frameDone, 0⟩] } := by rfl

theorem test_rx_byte_is_busy : answerOf (exec (.rxByte 0x22) (held 1 false)) = some ⟨.busy, 0⟩ := by rfl

theorem test_rx_end_at_count_zero_is_incomplete :
    answerOf (exec .rxEnd State.reset) = some ⟨.incompleteFrame, 0⟩ := by rfl

theorem test_rx_end_is_busy : answerOf (exec .rxEnd (held 1 false)) = some ⟨.busy, 0⟩ := by rfl

theorem test_decode_program_one :
    fieldOf State.raster (exec .decodeFrame (held 1 false)) =
      some [(0, 255), (1, 255), (2, 255), (3, 0), (4, 0), (5, 0)] := by rfl

/-- Row order (95_test_vectors.md section 2.7): one column of three rows, reversed. -/
theorem test_decode_flip_reverses_rows :
    fieldOf State.raster (exec .decodeFrame
      { ready 2 false true with
        w := 1, h := 3, frameReady := true, fbLen := 6,
        fb := [(0, 10), (1, 0), (2, 20), (3, 0), (4, 30), (5, 0)] }) =
      some [(0, 30), (1, 30), (2, 30), (3, 20), (4, 20), (5, 20), (6, 10), (7, 10), (8, 10)] := by rfl

theorem test_rd_pixel_reads_white : answerOf (exec (.rdPixel 0) decoded) = some ⟨.ok, 0x0000000000FFFFFF⟩ := by rfl

theorem test_rd_pixel_past_the_raster : answerOf (exec (.rdPixel 2) decoded) = some ⟨.range, 0⟩ := by rfl

theorem test_fn_clip8_saturates : answerOf (exec (.fnClip8 534) State.reset) = some ⟨.ok, 0xFF⟩ := by rfl

theorem test_fn_clip8_negative : answerOf (exec (.fnClip8 (-277)) State.reset) = some ⟨.ok, 0⟩ := by rfl

theorem test_fn_rshr8_floors :
    answerOf (exec (.fnRshr8 (-385)) State.reset) = some ⟨.ok, 0xFFFFFFFFFFFFFFFE⟩ := by rfl

theorem test_fn_rshr8_does_not_wrap :
    answerOf (exec (.fnRshr8 2147483647) State.reset) = some ⟨.ok, 0x0000000000800000⟩ := by rfl

theorem test_fn_yuv2rgb_red :
    answerOf (exec (.fnYuv2rgb 81 90 240) State.reset) = some ⟨.ok, 0x0000000000FF0000⟩ := by rfl

theorem test_fn_yuv2rgb_mixed :
    answerOf (exec (.fnYuv2rgb 255 0 0) State.reset) = some ⟨.ok, 0x00000000004AFF14⟩ := by rfl

theorem test_fn_yuyv2_pair :
    answerOf (exec (.fnYuyv2 0 0 255 255) State.reset) = some ⟨.ok, 0x00FFE11400B80000⟩ := by rfl

theorem test_fn_565s_fields : answerOf (exec (.fn565s 0x1234) State.reset) = some ⟨.ok, 0x1044A0⟩ := by rfl

theorem test_fn_565p_fields : answerOf (exec (.fn565p 0x8410) State.reset) = some ⟨.ok, 0x838183⟩ := by rfl

theorem test_fn_luma_copies : answerOf (exec (.fnLuma 16) State.reset) = some ⟨.ok, 0x101010⟩ := by rfl

/-! ### Steps -/

theorem test_step_runs_placed_word :
    answerOf (step (State.reset.withFetchWord 64 0x3200000000EB8080)) = some ⟨.ok, 0x0000000000FFFFFF⟩ := by rfl

theorem test_step_refuses_the_zero_word :
    step (State.reset.withFetchWord 64 0) = .next { State.reset with responses := [⟨.illegalCmd, 0⟩] } := by rfl

theorem test_reset_input_clears_the_frame :
    step { held 1 true with inputs := [.reset] } = .next State.reset := by rfl

theorem test_memory_at_reset_is_canonical :
    Memory.wf State.reset.fb = true ∧ Memory.wf State.reset.raster = true := by decide

/-! ### Witnesses: states and operands that meet the hypotheses of the statements -/

/-- A memory with all its bytes below `n` lies below every greater bound. -/
theorem small_below {m : Memory} {n k : Nat} (h : ∀ c, c ∈ m → c.1 < n) (hk : n ≤ k) : Below m k :=
  fun c hc => Nat.lt_of_lt_of_le (h c hc) hk

theorem test_reset_is_good : GoodState State.reset where
  geometry := ⟨by decide, by decide, Nat.le_trans (by decide : frameSize 320 240 ≤ 153600) fbCapacity_bounds.1⟩
  counting := fun _ => ⟨by decide, Written.zero _⟩
  holding := fun h => nomatch h
  frame := fun h => nomatch h
  noFrame := fun _ => rfl
  raster := fun h => nomatch h
  noRaster := fun _ => ⟨rfl, rfl⟩
  fbOk := ⟨by decide, Below.nil _⟩
  rasterOk := ⟨by decide, Below.nil _⟩

theorem ready_good (fmt : BitVec 2) (exp flip : Bool) : GoodState (ready fmt exp flip) where
  geometry := ⟨(by decide : 1 ≤ 2), Nat.le_refl 1,
    Nat.le_trans (by decide : frameSize 2 1 ≤ 153600) fbCapacity_bounds.1⟩
  counting := fun _ => ⟨(by decide : 0 < frameSize 2 1), Written.zero _⟩
  holding := fun h => nomatch h
  frame := fun h => nomatch h
  noFrame := fun _ => rfl
  raster := fun h => nomatch h
  noRaster := fun _ => ⟨rfl, rfl⟩
  fbOk := ⟨Memory.wf_nil, Below.nil _⟩
  rasterOk := ⟨Memory.wf_nil, Below.nil _⟩

theorem held_good (fmt : BitVec 2) (flip : Bool) : GoodState (held fmt flip) where
  geometry := ⟨(by decide : 1 ≤ 2), Nat.le_refl 1,
    Nat.le_trans (by decide : frameSize 2 1 ≤ 153600) fbCapacity_bounds.1⟩
  counting := fun h => nomatch h
  holding := fun _ => rfl
  frame := fun _ => ⟨(by decide : 1 ≤ 4), Nat.le_trans (by decide : (4 : Nat) ≤ 153600) fbCapacity_bounds.1,
    (by decide : ∀ i, i < 4 → (Memory.read [(0, 235), (1, 128), (2, 16), (3, 128)] i).isSome = true)⟩
  noFrame := fun h => nomatch h
  raster := fun h => nomatch h
  noRaster := fun _ => ⟨rfl, rfl⟩
  fbOk := ⟨(by decide : Memory.wf [(0, 235), (1, 128), (2, 16), (3, 128)] = true), small_below (n := 4)
    (by decide : ∀ c : Host.Cell, c ∈ [(0, 235), (1, 128), (2, 16), (3, 128)] → c.1 < 4)
    (Nat.le_trans (by decide) fbCapacity_bounds.1)⟩
  rasterOk := ⟨Memory.wf_nil, Below.nil _⟩

theorem test_witness_worked_encoding :
    ((0x36000000801080EB : CmdWord), Instr.fnYuyv2 235 128 16 128) ∈
      ([(0x1100000000000000, .rxEnd), (0x36000000801080EB, .fnYuyv2 235 128 16 128)] : List (CmdWord × Instr)) ∧
      decode 0x36000000801080EB = .ok (.fnYuyv2 235 128 16 128) ∧
      encode (.fnYuyv2 235 128 16 128) = 0x36000000801080EB := ⟨by decide, rfl, rfl⟩

theorem test_witness_decode_of_encode :
    WellFormed (.setMode 3 true true) = true ∧ WellFormed (.rdPixel 4294967295) = true ∧
      WellFormed (.fnClip8 (-2147483648)) = true ∧ WellFormed (.fnRshr8 2147483647) = true := by decide

theorem test_witness_encode_of_decode : decode 0x3600000000FF00FF = .ok (.fnYuyv2 255 0 255 0) := by rfl

theorem test_witness_decode_selects_row :
    (0x10000000000000FF : CmdWord) &&& (row (.rxByte 0)).2 = (row (.rxByte 0)).1 ∧
      decode 0x10000000000000FF = .ok (.rxByte 255) ∧ row (.rxByte 255) = row (.rxByte 0) := ⟨rfl, rfl, rfl⟩

/-- The boundary opcodes of the five ranges of rule R76, and each kind of reserved bit. -/
theorem test_witness_reserved_words :
    ((0x0000000000000000 : CmdWord).extractLsb' 56 8).toNat = 0x00 ∧
      ((0x0700000000000000 : CmdWord).extractLsb' 56 8).toNat = 0x07 ∧
      ((0x0F00000000000000 : CmdWord).extractLsb' 56 8).toNat = 0x0F ∧
      ((0x1200000000000000 : CmdWord).extractLsb' 56 8).toNat = 0x12 ∧
      ((0x1F00000000000000 : CmdWord).extractLsb' 56 8).toNat = 0x1F ∧
      ((0x2200000000000000 : CmdWord).extractLsb' 56 8).toNat = 0x22 ∧
      ((0x2F00000000000000 : CmdWord).extractLsb' 56 8).toNat = 0x2F ∧
      ((0x3700000000000000 : CmdWord).extractLsb' 56 8).toNat = 0x37 ∧
      ((0xFF00000000000000 : CmdWord).extractLsb' 56 8).toNat = 0xFF ∧
      (0x0300000100000000 : CmdWord).extractLsb' 32 24 ≠ 0 ∧ (0x0380000000000000 : CmdWord).extractLsb' 32 24 ≠ 0 ∧
      (0x0200000000000010 : CmdWord).extractLsb' 56 8 = (row (.setMode 0 false false)).1.extractLsb' 56 8 ∧
      (0x0200000000000010 : CmdWord) &&& (row (.setMode 0 false false)).2 ≠ (row (.setMode 0 false false)).1 := by
  decide

theorem test_witness_illegal_command :
    ({ State.reset with inputs := [.command 0x0F00000000000000] } : State).inputs = .command 0x0F00000000000000 :: [] ∧
      ∀ j, (0x0F00000000000000 : CmdWord) &&& (row j).2 ≠ (row j).1 :=
  ⟨rfl, fun j => by cases j <;> simp only [row] <;> decide⟩

theorem test_witness_step_runs_command :
    ({ held 1 true with inputs := [.command 0x2000000000000000, .reset] } : State).inputs =
        .command 0x2000000000000000 :: [.reset] ∧
      decode 0x2000000000000000 = .ok .decodeFrame ∧ WellFormed .decodeFrame = true := ⟨rfl, rfl, rfl⟩

theorem test_witness_idle : State.reset.inputs = [] := by rfl

theorem test_witness_reset_input :
    ({ held 1 true with inputs := [.reset] } : State).inputs = .reset :: [] := by rfl

theorem test_witness_one_response :
    ∃ t, step { decoded with inputs := [.command 0x2100000000000002] } = .next t ∧
      t.responses = [⟨.range, 0⟩] := ⟨_, rfl, rfl⟩

/-- The legal geometries at the ends (1 by 1, and the deployment geometry), a zero side, and one that never fits. -/
theorem test_witness_set_geom :
    (BitVec.toNat (1 : BitVec 16) ≠ 0 ∧ 1 * 1 * 2 ≤ Config.fbCapacity) ∧
      (320 : BitVec 16).toNat * (240 : BitVec 16).toNat * 2 ≤ Config.fbCapacity ∧
      (0 : BitVec 16).toNat = 0 ∧
      Config.fbCapacity < (65535 : BitVec 16).toNat * (65535 : BitVec 16).toNat * 2 := by
  have h := fbCapacity_bounds
  refine ⟨⟨by decide, by omega⟩, ?_, by decide, ?_⟩
  · exact Nat.le_trans (by decide) h.1
  · exact Nat.lt_of_le_of_lt h.2 (by decide)

theorem test_witness_good_held : GoodState (held 1 false) ∧ (held 1 false).frameReady = true :=
  ⟨held_good _ _, rfl⟩

theorem test_witness_good_empty :
    GoodState State.reset ∧ State.reset.frameReady = false ∧ State.reset.rasterValid = false :=
  ⟨test_reset_is_good, rfl, rfl⟩

theorem test_witness_configuration_reads_back :
    ∃ t u, exec (.setGeom 65535 1) State.reset = .next t ∧ t.responses = ⟨.ok, 0⟩ :: State.reset.responses ∧
      exec (.setMode 3 true true) t = .next u := ⟨_, _, rfl, rfl, rfl⟩

/-- RX_BYTE refused, RX_BYTE before the last byte, and RX_BYTE of the last byte. -/
theorem test_witness_rx_byte :
    (held 1 false).frameReady = true ∧
      ((ready 1 false false).frameReady = false ∧ (ready 1 false false).count.toNat < Config.fbCapacity ∧
        (ready 1 false false).count.toNat + 1 ≠
          (ready 1 false false).w.toNat * (ready 1 false false).h.toNat * 2) ∧
      ({ ready 1 false false with count := 3 } : State).count.toNat < Config.fbCapacity ∧
      ({ ready 1 false false with count := 3 } : State).count.toNat + 1 =
        (ready 1 false false).w.toNat * (ready 1 false false).h.toNat * 2 := by
  have h := fbCapacity_bounds
  refine ⟨rfl, ⟨rfl, Nat.lt_of_lt_of_le (by decide : 0 < 153600) h.1, by decide⟩,
    Nat.lt_of_lt_of_le (by decide : 3 < 153600) h.1, by decide⟩

theorem test_witness_rx_end :
    (held 1 false).frameReady = true ∧ ({ ready 1 false false with count := 3 } : State).frameReady = false :=
  ⟨rfl, rfl⟩

theorem test_witness_whole_frame :
    GoodState (ready 1 false false) ∧ (ready 1 false false).frameReady = false ∧ (ready 1 false false).count = 0 ∧
      [235#8, 128#8, 16#8, 128#8].length = (ready 1 false false).w.toNat * (ready 1 false false).h.toNat * 2 :=
  ⟨ready_good _ _ _, rfl, rfl, rfl⟩

/-- One byte short of a frame, and no byte at all. -/
theorem test_witness_short_stream :
    GoodState (ready 1 false false) ∧ (ready 1 false false).frameReady = false ∧ (ready 1 false false).count = 0 ∧
      [235#8, 128#8, 16#8].length < (ready 1 false false).w.toNat * (ready 1 false false).h.toNat * 2 ∧
      ([] : List Byte).length < (ready 1 false false).w.toNat * (ready 1 false false).h.toNat * 2 :=
  ⟨ready_good _ _ _, rfl, rfl, by decide, by decide⟩

theorem test_witness_reader_ignores_values : ∃ t, exec (.rxByte 0xFF) (ready 0 true true) = .next t := ⟨_, rfl⟩

/-- One state for each check of DECODE: no frame, no mode, no decoder, wrong size, odd width. -/
theorem test_witness_decode_fails :
    (ready 1 false false).frameReady = false ∧
      (({ held 3 false with modeValid := false, fbLen := 5 } : State).frameReady = true ∧
        ({ held 3 false with modeValid := false, fbLen := 5 } : State).modeValid = false) ∧
      ((held 3 false).frameReady = true ∧ (held 3 false).modeValid = true ∧ (held 3 false).fmt = 3) ∧
      (({ held 1 false with w := 1 } : State).frameReady = true ∧ ({ held 1 false with w := 1 } : State).fmt ≠ 3 ∧
        ({ held 1 false with w := 1 } : State).fbLen.toNat ≠
          ({ held 1 false with w := 1 } : State).w.toNat * ({ held 1 false with w := 1 } : State).h.toNat * 2) ∧
      ({ held 1 false with w := 1, h := 2 } : State).fmt = 1 ∧
      ({ held 1 false with w := 1, h := 2 } : State).fbLen.toNat =
        ({ held 1 false with w := 1, h := 2 } : State).w.toNat *
          ({ held 1 false with w := 1, h := 2 } : State).h.toNat * 2 ∧
      ({ held 1 false with w := 1, h := 2 } : State).w.toNat % 2 = 1 := by decide

theorem test_witness_decode_consumes :
    ∃ t, (held 2 true).frameReady = true ∧ exec .decodeFrame (held 2 true) = .next t ∧
      ∃ u, exec (.rxByte 7) t = .next u := ⟨_, rfl, rfl, _, rfl⟩

theorem test_witness_failed_decode :
    ∃ t, ({ held 3 true with rasterValid := true, rastW := 2, rastH := 1 } : State).frameReady = true ∧
      exec .decodeFrame { held 3 true with rasterValid := true, rastW := 2, rastH := 1 } = .next t ∧
      t.responses ≠ ⟨.ok, 0⟩ :: (held 3 true).responses := ⟨_, rfl, rfl, by decide⟩

/-- The bytes of the frame of `held`. -/
def heldByte (i : Nat) : Byte := if i = 0 then 235 else if i = 2 then 16 else 128

theorem test_witness_decode_succeeds :
    GoodState (held 1 true) ∧ (held 1 true).frameReady = true ∧ (held 1 true).modeValid = true ∧
      (held 1 true).fmt ≠ 3 ∧ (held 1 true).fbLen.toNat = (held 1 true).w.toNat * (held 1 true).h.toNat * 2 ∧
      (held 1 true).fbLen.toNat ≤ Config.fbCapacity ∧ (held 1 true).w.toNat % 2 = 0 ∧
      ∀ i, i < (held 1 true).fbLen.toNat → Memory.read (held 1 true).fb i = some (heldByte i) :=
  ⟨held_good 1 true, rfl, rfl, by decide, by decide, ((held_good 1 true).frame rfl).2.1, by decide,
    (by decide : ∀ i, i < 4 → Memory.read [(0, 235), (1, 128), (2, 16), (3, 128)] i = some (heldByte i))⟩

/-- Two states that agree in frame and configuration and in nothing else; both decode, with OK. -/
theorem test_witness_raster_depends :
    (∀ i, i < (held 1 false).fbLen.toNat →
        Memory.read (held 1 false).fb i =
          Memory.read ({ held 1 false with raster := [(0, 9)], rastW := 7, count := 5 } : State).fb i) ∧
      ∃ t t', exec .decodeFrame (held 1 false) = .next t ∧
        exec .decodeFrame { held 1 false with raster := [(0, 9)], rastW := 7, count := 5 } = .next t' ∧
        t.responses.head? = some ⟨.ok, 0⟩ := ⟨fun _ _ => rfl, _, _, rfl, rfl, rfl⟩

theorem test_witness_flip :
    ∃ t t', exec .decodeFrame { held 0 false with w := 1, h := 2, flip := false } = .next t ∧
      exec .decodeFrame { held 0 false with w := 1, h := 2, flip := true } = .next t' ∧
      t.responses = ⟨.ok, 0⟩ :: (held 0 false).responses := ⟨_, _, rfl, rfl, rfl⟩

theorem test_witness_uniform_red :
    ∃ t, exec .decodeFrame { held 0 true with fb := [(0, 0x00), (1, 0xF8), (2, 0x00), (3, 0xF8)] } = .next t ∧
      t.responses = ⟨.ok, 0⟩ :: (held 0 true).responses ∧ (held 0 true).fmt = 0 ∧ (held 0 true).exp = false ∧
      ∀ n, 2 * n < 4 → Memory.read [(0, 0x00), (1, 0xF8), (2, 0x00), (3, 0xF8)] (2 * n) = some 0x00 ∧
        Memory.read [(0, 0x00), (1, 0xF8), (2, 0x00), (3, 0xF8)] (2 * n + 1) = some 0xF8 :=
  ⟨_, rfl, rfl, rfl, rfl, fun n h => by
    have : n = 0 ∨ n = 1 := by omega
    rcases this with rfl | rfl <;> decide⟩

theorem test_witness_uniform_white :
    ∃ t, exec .decodeFrame { held 1 true with fb := [(0, 235), (1, 128), (2, 235), (3, 128)] } = .next t ∧
      t.responses = ⟨.ok, 0⟩ :: (held 1 true).responses ∧ (held 1 true).fmt = 1 ∧
      ∀ n, 2 * n < 4 → Memory.read [(0, 235), (1, 128), (2, 235), (3, 128)] (2 * n) = some 235 ∧
        Memory.read [(0, 235), (1, 128), (2, 235), (3, 128)] (2 * n + 1) = some 128 :=
  ⟨_, rfl, rfl, rfl, fun n h => by
    have : n = 0 ∨ n = 1 := by omega
    rcases this with rfl | rfl <;> decide⟩

/-- A geometry of the same size, which decodes, and one of another size, which does not. -/
theorem test_witness_geometry_change :
    (∃ t u, exec (.setGeom 1 2) (held 0 false) = .next t ∧ t.responses = ⟨.ok, 0⟩ :: (held 0 false).responses ∧
        exec .decodeFrame t = .next u) ∧
      (∃ t u, exec (.setGeom 2 2) (held 0 false) = .next t ∧ t.responses = ⟨.ok, 0⟩ :: (held 0 false).responses ∧
        exec .decodeFrame t = .next u) ∧
      (held 0 false).frameReady = true ∧ (held 0 false).modeValid = true ∧ (held 0 false).fmt ≠ 3 :=
  ⟨⟨_, _, rfl, rfl, rfl⟩, ⟨_, _, rfl, rfl, rfl⟩, rfl, rfl, by decide⟩

/-- RD_PIXEL without a raster, at the last pixel of a raster, and at the first index past it. -/
theorem test_witness_rd_pixel :
    State.reset.rasterValid = false ∧ decoded.rasterValid = true ∧
      1 < decoded.rastW.toNat * decoded.rastH.toNat ∧ decoded.rastW.toNat * decoded.rastH.toNat ≤ 2 ∧
      3 * 1 + 2 < Config.rasterCapacity ∧ Memory.read decoded.raster 3 = some 0 ∧
      Memory.read decoded.raster 4 = some 0 ∧ Memory.read decoded.raster 5 = some 0 := by
  have h := fbCapacity_bounds
  refine ⟨rfl, rfl, by decide, by decide, ?_, rfl, rfl, rfl⟩
  rw [Config.rasterCapacity]
  omega

theorem test_witness_raster_outlives :
    Instr.rxByte 1 ≠ .decodeFrame ∧ (∃ t, exec (.rxByte 1) decoded = .next t) ∧
      exec (.rdPixel 0) decoded = .next { decoded with responses := ⟨.ok, 0xFFFFFF⟩ :: decoded.responses } :=
  ⟨by decide, ⟨_, rfl⟩, rfl⟩

theorem test_witness_rshr8_range :
    (-2147483648 : Int) ≤ -2147483648 ∧ (2147483647 : Int) ≤ 2147483647 ∧ (-2147483648 : Int) ≤ 2147483647 := by
  decide

/-- Two luma bytes in order for the ramp, and its two ends. -/
theorem test_witness_grey_ramp :
    (16 : Byte).toNat ≤ (235 : Byte).toNat ∧ (16 : Byte).toNat ≤ 16 ∧ 235 ≤ (235 : Byte).toNat := by decide

/-- The round trip at the top of the range, where the two encoders agree, and at 252 and 254. -/
theorem test_witness_round_trip :
    (0xFFFF : Sample).toNat = 2048 * 31 + 32 * 63 + 31 ∧
      31 = encodeRound 5 255 ∧ 63 = encodeRound 6 255 ∧ 31 = encodeTrunc 5 255 ∧ 63 = encodeTrunc 6 255 ∧
      31 = encodeRound 5 252 ∧ 63 = encodeRound 6 252 ∧ 31 = encodeRound 5 253 ∧ 63 = encodeRound 6 254 := by decide

theorem test_witness_next_states :
    (∃ t, exec (.rxByte 128) { ready 1 false false with count := 3 } = .next t ∧ t.frameReady = true) ∧
      (∃ t, exec .decodeFrame (held 1 false) = .next t ∧ t.rasterValid = true) ∧
      (∃ t, exec .decodeFrame { held 3 false with rasterValid := true } = .next t ∧ t.rasterValid = false) ∧
      (∃ t, exec (.setMode 0 false false) State.reset = .next t ∧ t.modeValid = true) ∧
      ∃ t, exec .getStatus (held 1 false) = .next t ∧ Instr.getStatus ≠ .decodeFrame :=
  ⟨⟨_, rfl, rfl⟩, ⟨_, rfl, rfl⟩, ⟨_, rfl, rfl⟩, ⟨_, rfl, rfl⟩, ⟨_, rfl, by decide⟩⟩

theorem test_witness_reading_command :
    (∀ w h, Instr.rdPixel 1 ≠ .setGeom w h) ∧ (∀ fmt exp flip, Instr.rdPixel 1 ≠ .setMode fmt exp flip) ∧
      (∀ b, Instr.rdPixel 1 ≠ .rxByte b) ∧ Instr.rdPixel 1 ≠ .rxEnd ∧ Instr.rdPixel 1 ≠ .decodeFrame ∧
      ∃ t, exec (.rdPixel 1) decoded = .next t :=
  ⟨nofun, nofun, nofun, nofun, nofun, _, rfl⟩

theorem test_witness_invariant_step :
    GoodState { held 1 false with inputs := [.command 0x2000000000000000] } ∧
      ∃ t, step { held 1 false with inputs := [.command 0x2000000000000000] } = .next t ∧ t.rasterValid = true :=
  have g := held_good 1 false
  ⟨⟨g.geometry, g.counting, g.holding, g.frame, g.noFrame, g.raster, g.noRaster, g.fbOk, g.rasterOk⟩, _, rfl, rfl⟩

/-! States no run reaches, in which each command that can stop does. -/

/-- A held frame of 65534 by 32768 pixels, larger than every FB, whose first raster pixel is of its last row. -/
def oversized (fmt : BitVec 2) : State :=
  { held fmt true with w := 65534, h := 32768, fbLen := 4294836224 }

theorem test_witness_rx_byte_stops :
    ({ State.reset with count := 0xFFFFFFFF } : State).frameReady = false ∧
      Config.fbCapacity ≤ ({ State.reset with count := 0xFFFFFFFF } : State).count.toNat :=
  ⟨rfl, Nat.le_trans fbCapacity_bounds.2 (by decide)⟩

/-- RD_PIXEL past RASTER, and with the last byte of its pixel unwritten. -/
theorem test_witness_rd_pixel_stops :
    (({ decoded with rastW := 65535, rastH := 65535 } : State).rasterValid = true ∧
        4294836224 < (65535 : BitVec 16).toNat * (65535 : BitVec 16).toNat ∧
        Config.rasterCapacity ≤ 3 * 4294836224) ∧
      1 < decoded.rastW.toNat * decoded.rastH.toNat ∧ 3 * 1 < Config.rasterCapacity ∧
      Memory.read [(3, 0), (4, 0)] (3 * 1 + 2) = none := by
  have h := fbCapacity_bounds
  have hcap := rasterCapacity_eq
  exact ⟨⟨rfl, by decide, by omega⟩, by decide, by omega, rfl⟩

/-- DECODE of a frame whose last byte nothing has written, under each format that reads it. -/
theorem test_witness_decode_stops_unwritten :
    exec .decodeFrame { held 0 false with fb := [(0, 235), (1, 128), (2, 16)] } = .fault .fbUnwritten ∧
      exec .decodeFrame { held 1 true with fb := [(0, 235), (1, 128), (2, 16)] } = .fault .fbUnwritten ∧
      exec .decodeFrame { held 2 true with fb := [(0, 235)] } = .fault .fbUnwritten := ⟨rfl, rfl, rfl⟩

/-- The checks of DECODE pass in that state, and one of the bytes it reads is unwritten. -/
theorem test_witness_decode_reads_unwritten :
    checksPass { held 2 true with fb := [(0, 235)] } ∧
      decodeReads { held 2 true with fb := [(0, 235)] } 2 ∧
      Memory.read ({ held 2 true with fb := [(0, 235)] } : State).fb 2 = none :=
  ⟨⟨rfl, rfl, by decide, by decide, fun _ => rfl⟩,
    ⟨0, 1, by decide, by decide, .inr (.inr ⟨rfl, by decide⟩)⟩, rfl⟩

/-- DECODE of a frame larger than FB: the checks pass, and its first pixel lies past FB. -/
theorem test_witness_decode_stops_out_of_range :
    checksPass (oversized 1) ∧ exec .decodeFrame (oversized 0) = .fault .fbOutOfRange ∧
      exec .decodeFrame (oversized 1) = .fault .fbOutOfRange ∧
      exec .decodeFrame (oversized 2) = .fault .fbOutOfRange ∧
      Config.rasterCapacity < 3 * ((oversized 1).w.toNat * (oversized 1).h.toNat) := by
  have h := fbCapacity_bounds
  have hcap := rasterCapacity_eq
  have hsize : (oversized 1).w.toNat * (oversized 1).h.toNat = 2147418112 := by decide
  exact ⟨⟨rfl, rfl, by decide, by decide, fun _ => rfl⟩, rfl, rfl, rfl, by omega⟩

end Sys2Proof.Tests
end

/-! Reserved words (rules R74, R75, R76): the reference table and the model's rows agree, and a word outside the table is
answered ILLEGAL_CMD. -/

namespace Sys2Proof

/-- The match value of a row carries the row's OP (rule R74). -/
@[simp] theorem Opcode.opField_matchWord (o : Opcode) : opField o.matchWord = o.code := by
  cases o <;> rfl

/-- No two rows have one OP (rule R74). -/
theorem Opcode.code_injective : Function.Injective Opcode.code := fun o p h =>
  Option.some.inj (by rw [← Opcode.ofCode_code o, h, Opcode.ofCode_code])

/-- The assigned opcodes lie in the four groups 01..06, 10..11, 20..21 and 30..36 (rules R74, R76). -/
theorem Opcode.code_ranges (o : Opcode) :
    (0x01 ≤ o.code.toNat ∧ o.code.toNat ≤ 0x06) ∨ (0x10 ≤ o.code.toNat ∧ o.code.toNat ≤ 0x11) ∨
      (0x20 ≤ o.code.toNat ∧ o.code.toNat ≤ 0x21) ∨ (0x30 ≤ o.code.toNat ∧ o.code.toNat ≤ 0x36) := by
  cases o <;> decide

end Sys2Proof

namespace Sys2Proof.Machine

open Sys2Proof Sys2Proof.Reference

/-- The match and mask columns written out in the reference are those of the model's rows (rule R74). -/
theorem row_eq_matchWord_mask (i : Instr) : row i = (i.opcode.matchWord, i.opcode.mask) := by
  cases i <;> simp only [row, Instr.opcode] <;> decide

/-- A word that decodes and has the OP of a row selects that row: no bit that the row marks 0 is set (rule R75). -/
theorem selects_row_of_decode {c : CmdWord} {i j : Instr} (hc : decode c = .ok i)
    (hj : opField c = opField (row j).1) : c &&& (row j).2 = (row j).1 := by
  obtain ⟨-, o, ho, hsel, -⟩ := decode_eq_ok_iff.mp hc
  rw [row_eq_matchWord_mask] at hj ⊢
  have hoj : o = j.opcode := Opcode.code_injective (by rw [← ho, hj, Opcode.opField_matchWord])
  exact hoj ▸ hsel

/-- A step whose next input is a word that does not decode answers ILLEGAL_CMD and changes nothing else
(rules R75, R243). -/
theorem step_illegal {s : State} {c : CmdWord} {e : DecodeError} {rest : List Input}
    (hs : s.inputs = .command c :: rest) (hc : decode c = .error e) :
    step s = .next { s with inputs := rest, responses := ⟨.illegalCmd, 0⟩ :: s.responses } := by
  simp [step, stepInputs, hs, runInput, runWord, hc, State.answer]

/-- Settles O5: a word that decodes has an assigned OP, RSV 0 and no reserved bit of its row set, so a word of any of
the three kinds does not decode. -/
theorem reservedWordsAreIllegal : Obligations.ReservedWordsAreIllegal := by
  intro s c rest hs hres
  cases hc : decode c with
  | error e => exact step_illegal hs hc
  | ok i =>
    exfalso
    obtain ⟨hrsv, o, ho, -, -⟩ := decode_eq_ok_iff.mp hc
    rcases hres with hop | hrsv' | ⟨j, hj, hsel⟩
    · have hranges := Opcode.code_ranges o
      rw [← ho, opField] at hranges
      omega
    · exact hrsv' hrsv
    · exact hsel (selects_row_of_decode hc hj)

end Sys2Proof.Machine

/-! The frame reader (rules R101 to R103): the words of RX_BYTE and RX_END, and what the two commands do to the frame
being assembled. -/

namespace Sys2Proof

/-- A command whose word selects its own row is decoded back when its row reads its operand field back (rule R75). -/
theorem decode_encode_of_assemble {i : Instr} (hsel : Laws.Selects.Statement i) (hi : assemble i.opcode i.arg = i) :
    decode (encode i) = .ok i := by
  obtain ⟨hop, hrsv, harg⟩ := encode_fields i
  obtain ⟨-, hrow⟩ := hsel
  exact decode_eq_ok_iff.mpr ⟨hrsv, i.opcode, hop, hrow, by rw [harg, hi]⟩

/-- The word of RX_BYTE: its OP, and the byte in the eight lowest bits (rules R71, R74). -/
theorem encode_rxByte (b : Byte) : encode (.rxByte b) = (0x10#8 ++ 0#48 ++ b : BitVec 64) := by
  show (0x10#8 ++ 0#24 ++ (0#24 ++ b) : BitVec 64) = _
  ext j hj
  simp only [BitVec.getElem_append]
  grind

/-- The word of RX_END (rule R74). -/
theorem encode_rxEnd : encode .rxEnd = 0x1100000000000000 := rfl

/-- RX_BYTE reads its byte back out of the operand field (rule R71). -/
theorem assemble_rxByte (b : Byte) : assemble .rxByte (0#24 ++ b : BitVec 32) = .rxByte b := by
  rw [assemble]
  congr 1
  ext j hj
  simp only [BitVec.getElem_extractLsb', BitVec.getLsbD_append]
  grind

end Sys2Proof

namespace Sys2Proof.Machine

open Sys2Proof

theorem exec_rxByte (b : Byte) (s : State) : exec (.rxByte b) s = execRxByte b s := rfl

theorem exec_rxEnd (s : State) : exec .rxEnd s = execRxEnd s := rfl

/-- The count register one byte further (rule R26). -/
theorem ofNat_count_succ (c : BitVec 32) : BitVec.ofNat 32 (c.toNat + 1) = c + 1 := by
  rw [BitVec.ofNat_add, BitVec.ofNat_toNat, BitVec.setWidth_eq]
  rfl

/-- The last byte of `W * H * 2` completes the frame (rule R101). -/
theorem countByte_last {s : State} (he : s.count.toNat + 1 = frameSize s.w s.h) :
    countByte s = .next ((s.completeFrame (s.count.toNat + 1)).answer .frameDone 0) := by
  simp [countByte, he]

/-- Any other byte is counted (rule R101). -/
theorem countByte_other {s : State} (he : s.count.toNat + 1 ≠ frameSize s.w s.h) :
    countByte s =
      .next (({ s with count := BitVec.ofNat 32 (s.count.toNat + 1) } : State).answer .ok 0) := by
  simp [countByte, he, ofNat_count_succ]

/-- RX_BYTE is refused while a frame is held (rules R101, R107). -/
theorem execRxByte_held {b : Byte} {s : State} (hr : s.frameReady = true) :
    execRxByte b s = .next (s.answer .busy 0) := by
  simp [execRxByte, hr]

/-- RX_BYTE stores its byte at COUNT and counts it when no frame is held and FB has that byte (rule R101). -/
theorem execRxByte_stores {b : Byte} {s : State} (hr : s.frameReady = false)
    (hc : s.count.toNat < Config.fbCapacity) :
    execRxByte b s = countByte { s with fb := Memory.write s.fb s.count.toNat b } := by
  have hw := (writeFb_eq_ok (s := s) (v := b)).mpr ⟨hc, rfl⟩
  simp [execRxByte, hr, hw]

/-- Settles O21: the FB asked for is the present one with the byte written at COUNT, and the byte is then counted as
the last one of its frame or as one before it. -/
theorem rxByteStoresAndCounts : Obligations.RxByteStoresAndCounts := by
  refine ⟨fun b => ?_, fun s b hr => execRxByte_held hr, fun s b hr hc => ?_⟩
  · rw [← encode_rxByte]
    exact decode_encode_of_assemble (Laws.Selects.rxByte b) (assemble_rxByte b)
  · refine ⟨Memory.write s.fb s.count.toNat b, Memory.read_write_same _ _ _,
      fun i hi => Memory.read_write_other _ _ hi, fun hlast => ?_, fun hother => ?_⟩
    · rw [exec_rxByte, execRxByte_stores hr hc]
      exact countByte_last hlast
    · rw [exec_rxByte, execRxByte_stores hr hc]
      exact countByte_other hother

/-- Settles O22: RX_END is refused while a frame is held, and otherwise discards the partial frame, by
`execRxEnd_cases`. -/
theorem rxEndDiscardsPartialFrame : Obligations.RxEndDiscardsPartialFrame := by
  refine ⟨?_, fun s => ?_⟩
  · rw [← encode_rxEnd]
    exact decode_encode_of_assemble Laws.Selects.rxEnd rfl
  · rw [exec_rxEnd]
    rcases execRxEnd_cases s with ⟨hr, hx⟩ | ⟨hr, hx⟩
    · exact ⟨fun _ => hx, fun hr' => by simp [hr] at hr'⟩
    · exact ⟨fun hr' => by simp [hr] at hr', fun _ => hx⟩

end Sys2Proof.Machine

/-! The RGB565 unpacker (rules R120 to R126): the words of FN_565S and FN_565P, and the pixel each expansion answers. -/

namespace Sys2Proof

/-- The word of a sample command, its field A written as the two halves it is made of (rules R70, R71). -/
theorem sampleWord_eq (op : BitVec 8) (w : Sample) :
    (op ++ 0#24 ++ (0#16 ++ w : BitVec 32) : BitVec 64) = (op ++ 0#24 ++ 0#16 ++ w : BitVec 64) :=
  (BitVec.append_assoc (x₁ := op ++ 0#24) (x₂ := 0#16) (x₃ := w)).symm

/-- The word of FN_565S: its OP, and the sample in the sixteen lowest bits (rules R71, R74). -/
theorem encode_fn565s (w : Sample) : encode (.fn565s w) = (0x33#8 ++ 0#24 ++ 0#16 ++ w : BitVec 64) :=
  sampleWord_eq 0x33#8 w

/-- The word of FN_565P: its OP, and the sample in the sixteen lowest bits (rules R71, R74). -/
theorem encode_fn565p (w : Sample) : encode (.fn565p w) = (0x34#8 ++ 0#24 ++ 0#16 ++ w : BitVec 64) :=
  sampleWord_eq 0x34#8 w

/-- The sample alone in the field A is read back from its low half (rule R71). -/
theorem extractLsb'_sampleArg (w : Sample) : (0#16 ++ w : BitVec 32).extractLsb' 0 16 = w :=
  BitVec.extractLsb'_append_eq_right

/-- FN_565S reads its sample back out of the operand field (rule R71). -/
theorem assemble_fn565s (w : Sample) : assemble .fn565s (0#16 ++ w : BitVec 32) = .fn565s w :=
  congrArg Instr.fn565s (extractLsb'_sampleArg w)

/-- FN_565P reads its sample back out of the operand field (rule R71). -/
theorem assemble_fn565p (w : Sample) : assemble .fn565p (0#16 ++ w : BitVec 32) = .fn565p w :=
  congrArg Instr.fn565p (extractLsb'_sampleArg w)

end Sys2Proof

namespace Sys2Proof.Machine

open Sys2Proof Sys2Proof.Reference

theorem exec_fn565s (w : Sample) (s : State) : exec (.fn565s w) s = execFn565s w s := rfl

theorem exec_fn565p (w : Sample) (s : State) : exec (.fn565p w) s = execFn565p w s := rfl

/-- A PIX result holds the channels that its three bytes are the numbers of (rule R72). -/
theorem holdsPixel_pixResult {q : Rgb} {c : Channels} (hr : (q.r.toNat : Int) = c.r) (hg : (q.g.toNat : Int) = c.g)
    (hb : (q.b.toNat : Int) = c.b) : holdsPixel (pixResult q) c := by
  rw [holdsPixel, pixResult_toNat, ← hr, ← hg, ← hb]
  push_cast
  rfl

/-- Shift expansion is the reference formula on the number of the sample (rules R120, R121). -/
theorem holdsPixel_expandShift (w : Sample) : holdsPixel (pixResult (expandShift w)) (shift565 w.toNat) := by
  obtain ⟨hr, hg, hb⟩ := expandShift_toNat w
  obtain ⟨fr, fg, fb⟩ := fields_toNat w
  exact holdsPixel_pixResult (by simp [hr, fr, shift565]) (by simp [hg, fg, shift565]) (by simp [hb, fb, shift565])

/-- Proportional expansion is the reference formula on the number of the sample (rules R120, R122). -/
theorem holdsPixel_expandProp (w : Sample) : holdsPixel (pixResult (expandProp w)) (prop565 w.toNat) := by
  obtain ⟨hr, hg, hb⟩ := expandProp_toNat w
  obtain ⟨fr, fg, fb⟩ := fields_toNat w
  exact holdsPixel_pixResult (by simp [hr, fr, prop565]) (by simp [hg, fg, prop565]) (by simp [hb, fb, prop565])

/-- Settles O41: the word is the encoding of FN_565S, and its one response is the PIX result of the shift expansion,
by `holdsPixel_expandShift`. -/
theorem fn565sExpandsByShift : Obligations.Fn565sExpandsByShift := by
  refine ⟨fun w => ?_, fun s w => ⟨pixResult (expandShift w), ?_, holdsPixel_expandShift w⟩⟩
  · rw [← encode_fn565s]
    exact decode_encode_of_assemble (Laws.Selects.fn565s w) (assemble_fn565s w)
  · rw [exec_fn565s, execFn565s, respond_eq, State.answer]

/-- Settles O42: the word is the encoding of FN_565P, and its one response is the PIX result of the proportional
expansion, by `holdsPixel_expandProp`. -/
theorem fn565pExpandsProportionally : Obligations.Fn565pExpandsProportionally := by
  refine ⟨fun w => ?_, fun s w => ⟨pixResult (expandProp w), ?_, holdsPixel_expandProp w⟩⟩
  · rw [← encode_fn565p]
    exact decode_encode_of_assemble (Laws.Selects.fn565p w) (assemble_fn565p w)
  · rw [exec_fn565p, execFn565p, respond_eq, State.answer]

end Sys2Proof.Machine

/-! The numeric utilities of the YUV422 decoder (rules R140, R141): the clipper for every integer, the rounding shift,
and the S64 result. -/

namespace Sys2Proof.Machine

open Sys2Proof

/-- The clipper takes every value above a byte to 255 (rule R140). -/
theorem clip8_of_gt {x : Int} (h : 255 < x) : clip8 x = 255 := by
  rw [clip8, min_eq_left h.le]
  rfl

/-- The clipper takes every negative value to 0 (rule R140). -/
theorem clip8_of_neg {x : Int} (h : x < 0) : clip8 x = 0 := by
  rw [clip8, min_eq_right (by omega), max_eq_left h.le]

/-- The number a U8 result of a clipped value is (rules R72, R155). -/
theorem u8Result_clip8_toNat (x : Int) : ((u8Result (clip8 x)).toNat : Int) = clip8 x := by
  rw [u8Result_toNat, byteOfInt_clip8_toNat]

/-- The rounding shift is the floor of `(m + 128) / 256` (rule R141). -/
theorem rnd8_eq (m : Int) : rnd8 m = (m + 128) / 256 := rfl

/-- The rounding shift rounds the exact sum `m + 128` down (rules R141, R156). -/
theorem rnd8_rounds_down (m : Int) : 256 * rnd8 m ≤ m + 128 ∧ m + 128 < 256 * rnd8 m + 256 := by
  rw [rnd8_eq]
  omega

/-- The range of the rounding shift over the S32 operands (rule R156). -/
theorem rnd8_range {x : Int} (h0 : -2147483648 ≤ x) (h1 : x ≤ 2147483647) :
    -8388608 ≤ rnd8 x ∧ rnd8 x ≤ 8388608 := by
  rw [rnd8_eq]
  omega

/-- The signed number an S64 result is, for a value of 64 bits (rule R72). -/
theorem s64Result_toInt {x : Int} (h0 : -2 ^ 63 ≤ x) (h1 : x < 2 ^ 63) : (s64Result x).toInt = x :=
  BitVec.toInt_ofInt_eq_self (by decide) h0 h1

/-- Settles O44: the clipper is the formula, its range is `clip8_bounds`, and outside it the nearer end is answered. -/
theorem clip8NeverWraps : Obligations.Clip8NeverWraps := by
  intro x
  obtain ⟨h0, h1⟩ := clip8_bounds x
  exact ⟨rfl, h0, h1, clip8_of_gt, clip8_of_neg⟩

end Sys2Proof.Machine

/-! The words of the pure YUV422 commands (rules R70, R71, R74): FN_CLIP8 and FN_RSHR8 carry a signed word, FN_YUV2RGB
and FN_YUYV2 four bytes. -/

namespace Sys2Proof

/-- The word of FN_CLIP8: its OP, and the signed operand in the field A (rules R71, R74). -/
theorem encode_fnClip8 (a : BitVec 32) : encode (.fnClip8 a.toInt) = (0x30#8 ++ 0#24 ++ a : BitVec 64) :=
  congrArg (fun b : BitVec 32 => 0x30#8 ++ 0#24 ++ b) BitVec.ofInt_toInt

/-- The word of FN_RSHR8: its OP, and the signed operand in the field A (rules R71, R74). -/
theorem encode_fnRshr8 (a : BitVec 32) : encode (.fnRshr8 a.toInt) = (0x31#8 ++ 0#24 ++ a : BitVec 64) :=
  congrArg (fun b : BitVec 32 => 0x31#8 ++ 0#24 ++ b) BitVec.ofInt_toInt

/-- FN_CLIP8 reads its signed operand back out of the operand field (rule R71). -/
theorem assemble_fnClip8 (a : BitVec 32) : assemble .fnClip8 (BitVec.ofInt 32 a.toInt) = .fnClip8 a.toInt := by
  rw [BitVec.ofInt_toInt, assemble]

/-- FN_RSHR8 reads its signed operand back out of the operand field (rule R71). -/
theorem assemble_fnRshr8 (a : BitVec 32) : assemble .fnRshr8 (BitVec.ofInt 32 a.toInt) = .fnRshr8 a.toInt := by
  rw [BitVec.ofInt_toInt, assemble]

/-- The word of a command of four operand bytes, its field A written as the bytes it is made of (rules R70, R71). -/
theorem fourByteWord_eq (op : BitVec 8) (a b c d : Byte) :
    (op ++ 0#24 ++ (a ++ b ++ c ++ d : BitVec 32) : BitVec 64) = (op ++ 0#24 ++ a ++ b ++ c ++ d : BitVec 64) := by
  have hd := BitVec.append_assoc (x₁ := op ++ 0#24) (x₂ := a ++ b ++ c) (x₃ := d)
  have hc := BitVec.append_assoc (x₁ := op ++ 0#24) (x₂ := a ++ b) (x₃ := c)
  have hb := BitVec.append_assoc (x₁ := op ++ 0#24) (x₂ := a) (x₃ := b)
  exact hd.symm.trans (congrArg (· ++ d) (hc.symm.trans (congrArg (· ++ c) hb.symm)))

/-- Each of four fields side by side is read back from its place: the fields below it are skipped. -/
theorem extractLsb'_fourFields {k l m n : Nat} (a : BitVec k) (b : BitVec l) (c : BitVec m) (d : BitVec n) :
    (a ++ b ++ c ++ d).extractLsb' 0 n = d ∧ (a ++ b ++ c ++ d).extractLsb' n m = c ∧
      (a ++ b ++ c ++ d).extractLsb' (m + n) l = b ∧ (a ++ b ++ c ++ d).extractLsb' (l + m + n) k = a := by
  refine ⟨?_, ?_, ?_, ?_⟩ <;> simp [BitVec.extractLsb'_append_eq_of_le, BitVec.extractLsb'_append_eq_right]

/-- Each of the four bytes of a field A is read back from its place (rule R71). -/
theorem extractLsb'_fourBytes (a b c d : Byte) :
    (a ++ b ++ c ++ d : BitVec 32).extractLsb' 0 8 = d ∧ (a ++ b ++ c ++ d : BitVec 32).extractLsb' 8 8 = c ∧
      (a ++ b ++ c ++ d : BitVec 32).extractLsb' 16 8 = b ∧ (a ++ b ++ c ++ d : BitVec 32).extractLsb' 24 8 = a :=
  extractLsb'_fourFields a b c d

/-- The word of FN_YUV2RGB: its OP, and Y, U, V in the three lowest bytes (rules R71, R74). -/
theorem encode_fnYuv2rgb (y u v : Byte) :
    encode (.fnYuv2rgb y u v) = (0x32#8 ++ 0#24 ++ 0#8 ++ y ++ u ++ v : BitVec 64) :=
  fourByteWord_eq 0x32#8 0#8 y u v

/-- The word of FN_YUYV2: its OP, and the four bytes of the group, the first least significant (rules R71, R74). -/
theorem encode_fnYuyv2 (y0 u y1 v : Byte) :
    encode (.fnYuyv2 y0 u y1 v) = (0x36#8 ++ 0#24 ++ v ++ y1 ++ u ++ y0 : BitVec 64) :=
  fourByteWord_eq 0x36#8 v y1 u y0

/-- FN_YUV2RGB reads Y, U, V back out of the operand field (rule R71). -/
theorem assemble_fnYuv2rgb (y u v : Byte) :
    assemble .fnYuv2rgb (0#8 ++ y ++ u ++ v : BitVec 32) = .fnYuv2rgb y u v := by
  obtain ⟨hv, hu, hy, -⟩ := extractLsb'_fourBytes 0#8 y u v
  rw [assemble, hy, hu, hv]

/-- FN_YUYV2 reads the four bytes of the group back out of the operand field (rule R71). -/
theorem assemble_fnYuyv2 (y0 u y1 v : Byte) :
    assemble .fnYuyv2 (v ++ y1 ++ u ++ y0 : BitVec 32) = .fnYuyv2 y0 u y1 v := by
  obtain ⟨hy0, hu, hy1, hv⟩ := extractLsb'_fourBytes v y1 u y0
  rw [assemble, hv, hy1, hu, hy0]

end Sys2Proof

/-! The pure YUV422 commands (rules R155 to R158): the BT.601 pixel against the reference, the two lanes of a PIX2
result, and what each command answers. -/

namespace Sys2Proof.Machine

open Sys2Proof Sys2Proof.Reference

theorem exec_fnClip8 (x : Int) (s : State) : exec (.fnClip8 x) s = execFnClip8 x s := rfl

theorem exec_fnRshr8 (x : Int) (s : State) : exec (.fnRshr8 x) s = execFnRshr8 x s := rfl

theorem exec_fnYuv2rgb (y u v : Byte) (s : State) : exec (.fnYuv2rgb y u v) s = execFnYuv2rgb y u v s := rfl

theorem exec_fnYuyv2 (y0 u y1 v : Byte) (s : State) : exec (.fnYuyv2 y0 u y1 v) s = execFnYuyv2 y0 u y1 v s := rfl

/-- The reference conversion clips the three shifted accumulators of the model (rules R140, R143 to R145). -/
theorem bt601_eq_clip8_acc (y u v : Byte) :
    bt601 y.toNat u.toNat v.toNat =
      ⟨clip8 (asr (accR y u v) 8), clip8 (asr (accG y u v) 8), clip8 (asr (accB y u v) 8)⟩ := rfl

/-- The pixel function is the BT.601 conversion of the reference (rules R145, R148). -/
theorem holdsPixel_yuv2rgb (y u v : Byte) :
    holdsPixel (pixResult (yuv2rgb y u v)) (bt601 y.toNat u.toNat v.toNat) := by
  obtain ⟨hr, hg, hb⟩ := yuv2rgb_toNat y u v
  rw [bt601_eq_clip8_acc]
  exact holdsPixel_pixResult hr hg hb

/-- The 24 bits that a pixel takes in a PIX or PIX2 result: R, G, B from the most significant byte (rule R72). -/
def Rgb.packed (q : Rgb) : BitVec 24 := q.r ++ q.g ++ q.b

/-- A byte-wise pixel after any bits is its 24 bits after them. -/
theorem Rgb.append_packed {n : Nat} (x : BitVec n) (q : Rgb) : x ++ q.r ++ q.g ++ q.b = x ++ q.packed := by
  have hb := BitVec.append_assoc (x₁ := x) (x₂ := q.r ++ q.g) (x₃ := q.b)
  have hg := BitVec.append_assoc (x₁ := x) (x₂ := q.r) (x₃ := q.g)
  exact (congrArg (· ++ q.b) hg).trans hb

/-- A PIX result is one packed pixel (rule R72). -/
theorem pixResult_eq_packed (q : Rgb) : pixResult q = (0#40 ++ q.packed : BitVec 64) :=
  q.append_packed 0#40

/-- A PIX2 result is two packed pixels, each under a zero byte (rule R72). -/
theorem pix2Result_eq_packed (p0 p1 : Rgb) :
    pix2Result p0 p1 = (0#8 ++ p1.packed ++ 0#8 ++ p0.packed : BitVec 64) :=
  (p0.append_packed _).trans
    (congrArg (fun x : BitVec 32 => x ++ 0#8 ++ p0.packed) (p1.append_packed 0#8))

/-- The two lanes of a PIX2 result are its pixels, and the byte above each is 0 (rule R72). -/
theorem pix2Result_lanes (p0 p1 : Rgb) :
    (pix2Result p0 p1).extractLsb' 0 24 = p0.packed ∧ (pix2Result p0 p1).extractLsb' 24 8 = 0 ∧
      (pix2Result p0 p1).extractLsb' 32 24 = p1.packed ∧ (pix2Result p0 p1).extractLsb' 56 8 = 0 := by
  rw [pix2Result_eq_packed]
  exact extractLsb'_fourFields 0#8 p1.packed 0#8 p0.packed

/-- Settles O39: the word is the encoding of FN_YUV2RGB, and its one response is the PIX result of the converted triple,
by `holdsPixel_yuv2rgb`. -/
theorem fnYuv2rgbConverts : Obligations.FnYuv2rgbConverts := by
  refine ⟨fun y u v => ?_, fun s y u v => ⟨pixResult (yuv2rgb y u v), ?_, holdsPixel_yuv2rgb y u v⟩⟩
  · rw [← encode_fnYuv2rgb]
    exact decode_encode_of_assemble (Laws.Selects.fnYuv2rgb y u v) (assemble_fnYuv2rgb y u v)
  · rw [exec_fnYuv2rgb, execFnYuv2rgb, respond_eq, State.answer]

/-- Settles O40: each lane of the PIX2 result is the PIX result of its pixel, by `pix2Result_lanes`, and both pixels are
converted with the U and V of the group. -/
theorem fnYuyv2ConvertsThePair : Obligations.FnYuyv2ConvertsThePair := by
  refine ⟨fun y0 u y1 v => ?_, fun s y0 u y1 v => ?_⟩
  · rw [← encode_fnYuyv2]
    exact decode_encode_of_assemble (Laws.Selects.fnYuyv2 y0 u y1 v) (assemble_fnYuyv2 y0 u y1 v)
  · obtain ⟨lane0, zero0, lane1, zero1⟩ := pix2Result_lanes (yuv2rgb y0 u v) (yuv2rgb y1 u v)
    refine ⟨pix2Result (yuv2rgb y0 u v) (yuv2rgb y1 u v), ?_, ?_, ?_, zero0, zero1⟩
    · rw [exec_fnYuyv2, execFnYuyv2, respond_eq, State.answer]
    · rw [lane0, ← pixResult_eq_packed]
      exact holdsPixel_yuv2rgb y0 u v
    · rw [lane1, ← pixResult_eq_packed]
      exact holdsPixel_yuv2rgb y1 u v

/-- Settles O37: the word is the encoding of FN_CLIP8 with its signed operand, and the U8 result is the clipped value,
by `u8Result_clip8_toNat`. -/
theorem fnClip8Saturates : Obligations.FnClip8Saturates := by
  refine ⟨fun a => ?_, fun s x => ⟨u8Result (clip8 x), ?_, u8Result_clip8_toNat x⟩⟩
  · rw [← encode_fnClip8]
    exact decode_encode_of_assemble (Laws.Selects.fnClip8 a.toInt) (assemble_fnClip8 a)
  · rw [exec_fnClip8, execFnClip8, respond_eq, State.answer]

/-- Settles O38: the S64 result is the rounding shift of the operand, whose range fits (`rnd8_range`) and which rounds
down (`rnd8_rounds_down`). -/
theorem fnRshr8RoundsDown : Obligations.FnRshr8RoundsDown := by
  refine ⟨fun a => ?_, fun s x h0 h1 => ⟨s64Result (rnd8 x), ?_, ?_⟩⟩
  · rw [← encode_fnRshr8]
    exact decode_encode_of_assemble (Laws.Selects.fnRshr8 a.toInt) (assemble_fnRshr8 a)
  · rw [exec_fnRshr8, execFnRshr8, respond_eq, State.answer]
  · obtain ⟨hlo, hhi⟩ := rnd8_range h0 h1
    obtain ⟨hle, hlt⟩ := rnd8_rounds_down x
    rw [s64Result_toInt (by omega) (by omega)]
    exact ⟨hle, hlt, hlo, hhi⟩

end Sys2Proof.Machine

/-! FN_LUMA (rules R171, R173): its word, and the grey pixel it answers. -/

namespace Sys2Proof

/-- The word of FN_LUMA: its OP, and the luma byte in the eight lowest bits (rules R71, R74). -/
theorem encode_fnLuma (y : Byte) : encode (.fnLuma y) = (0x35#8 ++ 0#24 ++ 0#24 ++ y : BitVec 64) :=
  (BitVec.append_assoc (x₁ := 0x35#8 ++ 0#24) (x₂ := 0#24) (x₃ := y)).symm

/-- FN_LUMA reads its luma byte back out of the operand field (rule R71). -/
theorem assemble_fnLuma (y : Byte) : assemble .fnLuma (0#24 ++ y : BitVec 32) = .fnLuma y :=
  congrArg Instr.fnLuma BitVec.extractLsb'_append_eq_right

end Sys2Proof

namespace Sys2Proof.Machine

open Sys2Proof Sys2Proof.Reference

theorem exec_fnLuma (y : Byte) (s : State) : exec (.fnLuma y) s = execFnLuma y s := rfl

/-- The grey pixel of a luma byte has the number of the byte in each channel (rule R171). -/
theorem holdsPixel_grey (y : Byte) : holdsPixel (pixResult (grey y)) ⟨y.toNat, y.toNat, y.toNat⟩ :=
  holdsPixel_pixResult rfl rfl rfl

/-- Settles O43: the word is the encoding of FN_LUMA, and its one response is the PIX result of the grey pixel, by
`holdsPixel_grey`. -/
theorem fnLumaCopiesTheByte : Obligations.FnLumaCopiesTheByte := by
  refine ⟨fun y => ?_, fun s y => ⟨pixResult (grey y), ?_, holdsPixel_grey y⟩⟩
  · rw [← encode_fnLuma]
    exact decode_encode_of_assemble (Laws.Selects.fnLuma y) (assemble_fnLuma y)
  · rw [exec_fnLuma, execFnLuma, respond_eq, State.answer]

end Sys2Proof.Machine

/-! DECODE (rules R180 to R189): the word, the formats, and one equation for each way the command can end. -/

namespace Sys2Proof

/-- The word of DECODE (rule R74). -/
theorem encode_decodeFrame : encode .decodeFrame = 0x2000000000000000 := rfl

end Sys2Proof

namespace Sys2Proof.Machine

open Sys2Proof

theorem exec_decodeFrame (s : State) : exec .decodeFrame s = execDecodeFrame s := rfl

/-- Only the code 3 has no decoder (rule R23). -/
theorem formatOfCode_eq_none_iff (c : BitVec 2) : formatOfCode c = none ↔ c = 3 := by
  revert c
  decide

/-- Every code but 3 has a decoder (rule R23). -/
theorem formatOfCode_of_ne_three {c : BitVec 2} (h : c ≠ 3) : ∃ f, formatOfCode c = some f :=
  Option.ne_none_iff_exists'.mp (mt (formatOfCode_eq_none_iff c).mp h)

/-- The value of FMT that stands for a format (rule R23). -/
def PixelFormat.code : PixelFormat → BitVec 2
  | .rgb565 => 0
  | .yuv422 => 1
  | .luma8 => 2

/-- The format of a code is the one it stands for (rule R23). -/
theorem formatOfCode_eq_some_iff (c : BitVec 2) (f : PixelFormat) : formatOfCode c = some f ↔ c = f.code := by
  revert c
  cases f <;> decide

/-- DECODE without a frame fails with NO_FRAME and changes nothing (rule R180). -/
theorem execDecodeFrame_noFrame {s : State} (hr : s.frameReady = false) :
    execDecodeFrame s = .next (s.answer .noFrame 0) := by
  simp [execDecodeFrame, hr]

section Held

variable {s : State} (hr : s.frameReady = true)

include hr

/-- A frame that is held is taken before any check (rules R180, R189). -/
theorem execDecodeFrame_held : execDecodeFrame s = decodeTaken s.fbLen.toNat s.consumeFrame := by
  simp [execDecodeFrame, hr]

/-- The first check of a held frame: no mode has been set (rule R181). -/
theorem execDecodeFrame_notConfigured (hm : s.modeValid = false) :
    execDecodeFrame s = .next (s.consumeFrame.invalidateRaster.answer .notConfigured 0) := by
  simp [execDecodeFrame_held hr, decodeTaken, hm]

/-- The second check: the tag has no decoder (rule R182). -/
theorem execDecodeFrame_unsupportedFormat (hm : s.modeValid = true) (hf : formatOfCode s.fmt = none) :
    execDecodeFrame s = .next (s.consumeFrame.invalidateRaster.answer .unsupportedFormat 0) := by
  simp [execDecodeFrame_held hr, decodeTaken, hm, hf]

/-- The third check: the frame has another length than the geometry in force (rule R184). -/
theorem execDecodeFrame_sizeMismatch {f : PixelFormat} (hm : s.modeValid = true) (hf : formatOfCode s.fmt = some f)
    (hl : s.fbLen.toNat ≠ frameSize s.w s.h) :
    execDecodeFrame s = .next (s.consumeFrame.invalidateRaster.answer .sizeMismatch 0) := by
  simp [execDecodeFrame_held hr, decodeTaken, hm, hf, hl]

/-- The last check: an odd width under YUV422 (rule R184). -/
theorem execDecodeFrame_badConfig (hm : s.modeValid = true) (hf : formatOfCode s.fmt = some .yuv422)
    (hl : s.fbLen.toNat = frameSize s.w s.h) (hodd : s.w.toNat % 2 = 1) :
    execDecodeFrame s = .next (s.consumeFrame.invalidateRaster.answer .badConfig 0) := by
  simp [execDecodeFrame_held hr, decodeTaken, hm, hf, hl, hodd]

/-- When no check applies, the frame is decoded (rules R180, R186). -/
theorem execDecodeFrame_decodes {f : PixelFormat} (hm : s.modeValid = true) (hf : formatOfCode s.fmt = some f)
    (hl : s.fbLen.toNat = frameSize s.w s.h) (heven : f = .yuv422 → s.w.toNat % 2 = 0) :
    execDecodeFrame s = decodeRaster f s.consumeFrame := by
  have hpass : ¬ (f = .yuv422 ∧ s.w.toNat % 2 = 1) := fun ⟨hyuv, hodd⟩ => by simp [heven hyuv] at hodd
  simp [execDecodeFrame_held hr, decodeTaken, hm, hf, hl, hpass]

end Held

/-- A DECODE that finds a frame and answers a next state has failed a check and invalidated the raster, or has decoded
the frame (rules R180, R185, R189). -/
theorem execDecodeFrame_held_next {s t : State} (hr : s.frameReady = true) (h : execDecodeFrame s = .next t) :
    (∃ st, t = s.consumeFrame.invalidateRaster.answer st 0) ∨ ∃ f, decodeRaster f s.consumeFrame = .next t := by
  rcases execDecodeFrame_cases s with
    ⟨hr', -⟩ | ⟨-, ⟨-, he⟩ | ⟨-, -, he⟩ | ⟨f, -, -, ⟨-, he⟩ | ⟨-, -, -, he⟩ | ⟨-, -, he⟩⟩⟩
  case inl => simp [hr] at hr'
  case inr.inr.inr.inr.inr => exact .inr ⟨f, he ▸ h⟩
  all_goals exact .inl ⟨_, next_inj.mp (h.symm.trans he)⟩

/-- Settles O26: each alternative is the equation of DECODE for the check that applies first. -/
theorem decodeFailsWithFirstCheck : Obligations.DecodeFailsWithFirstCheck := by
  refine ⟨?_, fun s => ⟨fun hr => execDecodeFrame_noFrame hr, fun st hfail => ?_⟩⟩
  · rw [← encode_decodeFrame]
    exact decode_encode_of_assemble Laws.Selects.decodeFrame rfl
  · rcases hfail with ⟨hr, hm, rfl⟩ | ⟨hr, hm, hf, rfl⟩ | ⟨hr, hm, hf, hl, rfl⟩ | ⟨hr, hm, hf, hl, hodd, rfl⟩
    · exact execDecodeFrame_notConfigured hr hm
    · exact execDecodeFrame_unsupportedFormat hr hm ((formatOfCode_eq_none_iff _).mpr hf)
    · obtain ⟨f, hf⟩ := formatOfCode_of_ne_three hf
      exact execDecodeFrame_sizeMismatch hr hm hf hl
    · exact execDecodeFrame_badConfig hr hm ((formatOfCode_eq_some_iff _ _).mpr hf) hl hodd

end Sys2Proof.Machine

/-! RD_PIXEL (rule R190): its word, and one equation for each way it can end. -/

namespace Sys2Proof

/-- A field A is the word of the index it carries (rule R71). -/
theorem ofNat_toNat_idx (p : BitVec 32) : BitVec.ofNat 32 p.toNat = p := by
  rw [BitVec.ofNat_toNat, BitVec.setWidth_eq]

/-- The word of RD_PIXEL: its OP, and the index in the field A (rules R71, R74). -/
theorem encode_rdPixel (p : BitVec 32) : encode (.rdPixel p.toNat) = (0x21#8 ++ 0#24 ++ p : BitVec 64) :=
  congrArg (fun a : BitVec 32 => 0x21#8 ++ 0#24 ++ a) (ofNat_toNat_idx p)

/-- RD_PIXEL reads its index back out of the operand field (rule R71). -/
theorem assemble_rdPixel (p : BitVec 32) : assemble .rdPixel (BitVec.ofNat 32 p.toNat) = .rdPixel p.toNat := by
  rw [ofNat_toNat_idx, assemble]

end Sys2Proof

namespace Sys2Proof.Machine

open Sys2Proof Sys2Proof.Reference

theorem exec_rdPixel (p : Nat) (s : State) : exec (.rdPixel p) s = execRdPixel p s := rfl

/-- RD_PIXEL without a valid raster fails with NO_RASTER (rule R190). -/
theorem execRdPixel_noRaster {s : State} (p : Nat) (hv : s.rasterValid = false) :
    execRdPixel p s = .next (s.answer .noRaster 0) := by
  simp [execRdPixel, hv]

/-- RD_PIXEL of an index past the raster held fails with RANGE (rule R190). -/
theorem execRdPixel_range {s : State} {p : Nat} (hv : s.rasterValid = true)
    (hp : s.rastW.toNat * s.rastH.toNat ≤ p) : execRdPixel p s = .next (s.answer .range 0) := by
  simp [execRdPixel, hv, hp]

/-- RD_PIXEL of a pixel of the raster answers that pixel (rule R190). -/
theorem execRdPixel_reads {s : State} {p : Nat} {q : Rgb} (hv : s.rasterValid = true)
    (hp : p < s.rastW.toNat * s.rastH.toNat) (hq : readPixel s p = .ok q) :
    execRdPixel p s = .next (s.answer .ok (pixResult q)) := by
  simp [execRdPixel, hv, Nat.not_le.mpr hp, hq]

/-- A memory holds the pixel `q` as pixel `p`: R, G, B at the bytes 3p, 3p+1, 3p+2 (rule R52). -/
def Memory.HasPixel (m : Memory) (p : Nat) (q : Rgb) : Prop :=
  Memory.read m (3 * p) = some q.r ∧ Memory.read m (3 * p + 1) = some q.g ∧ Memory.read m (3 * p + 2) = some q.b

/-- A pixel that RASTER holds within its capacity is read (rule R52). -/
theorem readPixel_of_hasPixel {s : State} {p : Nat} {q : Rgb} (hcap : 3 * p + 2 < Config.rasterCapacity)
    (hq : s.raster.HasPixel p q) : readPixel s p = .ok q := by
  obtain ⟨hr, hg, hb⟩ := hq
  exact readPixel_eq_ok.mpr ⟨readRaster_eq_ok.mpr ⟨by omega, hr⟩, readRaster_eq_ok.mpr ⟨by omega, hg⟩,
    readRaster_eq_ok.mpr ⟨hcap, hb⟩⟩

/-- Settles O35: the word is the encoding of RD_PIXEL, and each clause is the equation of RD_PIXEL for its case, the
last one with the pixel whose three bytes are given. -/
theorem rdPixelReadsThePixel : Obligations.RdPixelReadsThePixel := by
  refine ⟨fun p => ?_, fun s p => ⟨execRdPixel_noRaster p, execRdPixel_range, ?_⟩⟩
  · rw [← encode_rdPixel]
    exact decode_encode_of_assemble (Laws.Selects.rdPixel p.toNat) (assemble_rdPixel p)
  · intro r g b hv hp hcap hr hg hb
    have hq : readPixel s p = .ok ⟨r, g, b⟩ := readPixel_of_hasPixel hcap ⟨hr, hg, hb⟩
    rw [exec_rdPixel, execRdPixel_reads hv hp hq, State.answer, pixResult]

end Sys2Proof.Machine

/-! The raster a DECODE writes (rules R186 to R188), and what a DECODE that found a frame leaves behind (rules R185,
R189). -/

namespace Sys2Proof.Machine

open Sys2Proof Sys2Proof.Reference

/-- What a DECODE that reaches the raster loop changes: the raster's registers, its responses and the bytes of its
pixels, pixel `p` being the one `rasterPixel` gives (rules R52, R186). -/
theorem decodeRaster_next {f : PixelFormat} {s t : State} (h : decodeRaster f s = .next t) :
    t = ({ s with raster := t.raster } : State).validateRaster.answer .ok 0 ∧
      (∀ p, p < s.w.toNat * s.h.toNat → ∃ q, rasterPixel f s p = .ok q ∧ t.raster.HasPixel p q) ∧
      ∀ i, 3 * (s.w.toNat * s.h.toNat) ≤ i → Memory.read t.raster i = Memory.read s.raster i := by
  obtain ⟨bytes, hb, -, rfl⟩ := decodeRaster_spec h
  obtain ⟨hlen, hall⟩ := rasterBytes_spec hb
  have hread : ∀ {k : Nat} {b : Byte}, bytes[k]? = some b →
      Memory.read (Memory.writeBytes s.raster 0 bytes) k = some b := fun {k b} hk => by
    obtain ⟨hlt, rfl⟩ := List.getElem?_eq_some_iff.mp hk
    simpa using Memory.read_writeBytes_inside s.raster 0 bytes hlt
  refine ⟨rfl, fun p hp => ?_, fun i hi => Memory.read_writeBytes_other s.raster bytes (by omega)⟩
  obtain ⟨q, hq, hr, hg, hb⟩ := hall p hp
  exact ⟨q, by rwa [Nat.zero_add] at hq, hread hr, hread hg, hread hb⟩

/-- The three channels of a pixel as the reference has them. -/
def Rgb.channels (q : Rgb) : Channels := ⟨q.r.toNat, q.g.toNat, q.b.toNat⟩

/-- Shift expansion is the reference formula, channel by channel (rules R120, R121). -/
theorem channels_expandShift (w : Sample) : (expandShift w).channels = shift565 w.toNat := by
  obtain ⟨hr, hg, hb⟩ := expandShift_toNat w
  obtain ⟨fr, fg, fb⟩ := fields_toNat w
  simp [Rgb.channels, shift565, hr, hg, hb, fr, fg, fb]

/-- Proportional expansion is the reference formula, channel by channel (rules R120, R122). -/
theorem channels_expandProp (w : Sample) : (expandProp w).channels = prop565 w.toNat := by
  obtain ⟨hr, hg, hb⟩ := expandProp_toNat w
  obtain ⟨fr, fg, fb⟩ := fields_toNat w
  simp [Rgb.channels, prop565, hr, hg, hb, fr, fg, fb]

/-- The YUV conversion is the reference's BT.601, channel by channel (rule R145). -/
theorem channels_yuv2rgb (y u v : Byte) : (yuv2rgb y u v).channels = bt601 y.toNat u.toNat v.toNat := by
  obtain ⟨hr, hg, hb⟩ := yuv2rgb_toNat y u v
  rw [bt601_eq_clip8_acc, Rgb.channels, hr, hg, hb]

/-- In a frame of `n` pixels whose bytes are `d`, each pixel decodes to the reference's pixel (rules R124, R151, R171,
R188); under YUV422 the frame is a number of groups. -/
theorem pix_of_frame {f : PixelFormat} {s : State} {d : Nat → Byte} {n i : Nat} (hf : formatOfCode s.fmt = some f)
    (hd : ∀ k, k < 2 * n → readFb s k = .ok (d k)) (hi : i < n) (heven : f = .yuv422 → n % 2 = 0) :
    ∃ q, pix f s i = .ok q ∧ q.channels = pixel s.fmt s.exp d i := by
  have hfmt := (formatOfCode_eq_some_iff _ _).mp hf
  have hy := hd (2 * i) (by omega)
  cases f with
  | rgb565 =>
    refine ⟨_, pix565_of_bytes hy (hd (2 * i + 1) (by omega)), ?_⟩
    cases hexp : s.exp <;>
      simp [pixel, hfmt, PixelFormat.code, channels_expandShift, channels_expandProp, sample_toNat]
  | yuv422 =>
    have hgroups := heven rfl
    refine ⟨_, pixYuv_of_bytes hy (hd (4 * (i / 2) + 1) (by omega)) (hd (4 * (i / 2) + 3) (by omega)), ?_⟩
    simp [pixel, hfmt, PixelFormat.code, channels_yuv2rgb]
  | luma8 =>
    refine ⟨_, pixLuma_of_byte hy, ?_⟩
    simp [pixel, hfmt, PixelFormat.code, grey, Rgb.channels]

/-- The raster index of row `r` and column `c`, and the row and column it is the index of (rule R52). -/
theorem rowCol_index {w h r c : Nat} (hr : r < h) (hc : c < w) :
    r * w + c < w * h ∧ (r * w + c) / w = r ∧ (r * w + c) % w = c := by
  refine ⟨?_, ?_, Nat.mul_add_mod_of_lt hc⟩
  · calc r * w + c < (r + 1) * w := by rw [Nat.succ_mul]; omega
      _ ≤ h * w := Nat.mul_le_mul_right w hr
      _ = w * h := Nat.mul_comm h w
  · rw [Nat.mul_comm, Nat.mul_add_div (by omega), Nat.div_eq_of_lt hc, Nat.add_zero]

/-- The source pixel of row `r` and column `c` lies in the frame (rule R187). -/
theorem source_rowCol_lt (flip : Bool) {w h r c : Nat} (hr : r < h) (hc : c < w) : source flip w h r c < w * h := by
  obtain ⟨hp, hrow, hcol⟩ := rowCol_index hr hc
  have hlt := source_lt flip hp
  rw [hrow, hcol] at hlt
  exact hlt

/-- The raster pixel of row `r` and column `c` is the frame's pixel at its source (rule R187). -/
theorem rasterPixel_rowCol (f : PixelFormat) {s : State} {r c : Nat} (hr : r < s.h.toNat) (hc : c < s.w.toNat) :
    rasterPixel f s (r * s.w.toNat + c) = pix f s (source s.flip s.w.toNat s.h.toNat r c) := by
  obtain ⟨-, hrow, hcol⟩ := rowCol_index hr hc
  rw [rasterPixel, hrow, hcol, srcRow, source]

/-- In a whole frame whose bytes are `d`, the raster pixel of row `r` and column `c` decodes to the reference's pixel at
its source (rules R187, R188). -/
theorem rasterPixel_of_frame {f : PixelFormat} {s : State} {d : Nat → Byte} {r c : Nat}
    (hf : formatOfCode s.fmt = some f) (hcap : frameSize s.w s.h ≤ Config.fbCapacity)
    (hd : ∀ k, k < frameSize s.w s.h → Memory.read s.fb k = some (d k))
    (heven : f = .yuv422 → s.w.toNat % 2 = 0) (hr : r < s.h.toNat) (hc : c < s.w.toNat) :
    ∃ q, rasterPixel f s (r * s.w.toNat + c) = .ok q ∧
      q.channels = pixel s.fmt s.exp d (source s.flip s.w.toNat s.h.toNat r c) := by
  rw [frameSize_eq, Nat.mul_comm] at hcap hd
  rw [rasterPixel_rowCol f hr hc]
  exact pix_of_frame hf (fun k hk => readFb_eq_ok.mpr ⟨Nat.lt_of_lt_of_le hk hcap, hd k hk⟩)
    (source_rowCol_lt s.flip hr hc) fun hyuv => by simp [Nat.mul_mod, heven hyuv]

/-- Settles O27: no check applies, so the frame is decoded; the raster loop completes, and each pixel it writes is the
reference's, by `rasterPixel_of_frame`. -/
theorem decodeWritesTheRaster : Obligations.DecodeWritesTheRaster := by
  intro s d hr hm hfmt hlen hcap heven hd
  obtain ⟨f, hf⟩ := formatOfCode_of_ne_three hfmt
  have heven' : f = .yuv422 → s.w.toNat % 2 = 0 := by
    rintro rfl
    exact heven ((formatOfCode_eq_some_iff _ _).mp hf)
  rw [hlen, ← frameSize_eq] at hcap hd
  obtain ⟨t, ht⟩ := decodeRaster_completes (f := f) (s := s.consumeFrame)
    (fun i hi => Option.isSome_iff_exists.mpr ⟨d i, hd i hi⟩) hcap heven'
  obtain ⟨htq, hpix, hpast⟩ := decodeRaster_next ht
  refine ⟨t.raster, ?_, fun r c hr hc => ?_, hpast⟩
  · rw [exec_decodeFrame, execDecodeFrame_decodes hr hm hf hlen heven', ht]
    exact congrArg Host.Outcome.next htq
  · obtain ⟨q, hq, hbytes⟩ := hpix (r * s.w.toNat + c) (rowCol_index hr hc).1
    obtain ⟨q', hq', hchannels⟩ := rasterPixel_of_frame (s := s.consumeFrame) hf hcap hd heven' hr hc
    obtain rfl : q = q' := Except.ok.inj (hq.symm.trans hq')
    exact ⟨q, hchannels, hbytes⟩

/-- Settles O28: whatever comes of it, the frame has been consumed, and neither RX_BYTE nor RX_END is then refused. -/
theorem decodeConsumesItsFrame : Obligations.DecodeConsumesItsFrame := by
  intro s t hr h
  have hconsumed : t.frameReady = false ∧ t.fbLen = 0 := by
    rcases execDecodeFrame_held_next hr h with ⟨st, rfl⟩ | ⟨f, hdec⟩
    · exact ⟨rfl, rfl⟩
    · rw [(decodeRaster_next hdec).1]
      exact ⟨rfl, rfl⟩
  obtain ⟨hfree, hlen⟩ := hconsumed
  refine ⟨hfree, hlen, fun b u hu => ?_, ?_⟩
  · rcases execRxByte_cases hu with ⟨hheld, -⟩ | ⟨-, -, ⟨-, rfl⟩ | ⟨-, rfl⟩⟩
    · simp [hfree] at hheld
    · simp
    · simp
  · rcases execRxEnd_cases t with ⟨hheld, -⟩ | ⟨-, hend⟩
    · simp [hfree] at hheld
    · exact ⟨_, hend, rfl⟩

/-- Settles O29: a DECODE that did not answer OK has failed a check, and so invalidated the raster. -/
theorem failedDecodeLeavesNoRaster : Obligations.FailedDecodeLeavesNoRaster := by
  intro s t hr h hfailed
  rcases execDecodeFrame_held_next hr h with ⟨st, rfl⟩ | ⟨f, hdec⟩
  · exact ⟨rfl, rfl, rfl, rfl, fun p => execRdPixel_noRaster p rfl⟩
  · refine absurd ?_ hfailed
    rw [(decodeRaster_next hdec).1]
    rfl

end Sys2Proof.Machine

/-! The words of the configuration and status commands (rules R70, R71, R74): SET_GEOM carries two 16-bit fields,
SET_MODE the three mode fields, and the reading commands none. -/

namespace Sys2Proof

/-- The word of SET_GEOM: its OP, then w and h (rules R71, R74). -/
theorem encode_setGeom (w h : BitVec 16) : encode (.setGeom w h) = (0x01#8 ++ 0#24 ++ w ++ h : BitVec 64) :=
  (BitVec.append_assoc (x₁ := 0x01#8 ++ 0#24) (x₂ := w) (x₃ := h)).symm

/-- SET_GEOM reads w and h back out of the two halves of the operand field (rule R71). -/
theorem assemble_setGeom (w h : BitVec 16) : assemble .setGeom (w ++ h : BitVec 32) = .setGeom w h := by
  have hw : (w ++ h : BitVec 32).extractLsb' 16 16 = w := BitVec.extractLsb'_append_eq_left
  have hh : (w ++ h : BitVec 32).extractLsb' 0 16 = h := BitVec.extractLsb'_append_eq_right
  rw [assemble, hw, hh]

/-- The word of SET_MODE: its OP, and flip, exp, fmt in the four lowest bits (rules R71, R74). -/
theorem encode_setMode (fmt : BitVec 2) (exp flip : Bool) :
    encode (.setMode fmt exp flip) =
      (0x02#8 ++ 0#24 ++ 0#28 ++ BitVec.ofBool flip ++ BitVec.ofBool exp ++ fmt : BitVec 64) := by
  show (0x02#8 ++ 0#24 ++ (0#28 ++ BitVec.ofBool flip ++ BitVec.ofBool exp ++ fmt) : BitVec 64) = _
  ext j hj
  simp only [BitVec.getElem_append]
  grind

/-- A bit is what the field of that one bit holds. -/
theorem getLsbD_of_extractLsb'_one {n k : Nat} {x : BitVec n} {b : Bool}
    (h : x.extractLsb' k 1 = BitVec.ofBool b) : x.getLsbD k = b := by
  simpa using congrArg (fun y : BitVec 1 => y.getLsbD 0) h

/-- A field keeps its value, further up, when other bits are put below it. -/
theorem extractLsb'_above {m n k l : Nat} {x : BitVec m} {v : BitVec l} (y : BitVec n)
    (h : x.extractLsb' k l = v) : (x ++ y).extractLsb' (n + k) l = v := by
  rw [BitVec.extractLsb'_append_eq_of_le (Nat.le_add_right n k), Nat.add_sub_cancel_left, h]

/-- SET_MODE reads fmt, exp and flip back out of the four lowest bits of the operand field (rule R71). -/
theorem assemble_setMode (fmt : BitVec 2) (exp flip : Bool) :
    assemble .setMode (0#28 ++ BitVec.ofBool flip ++ BitVec.ofBool exp ++ fmt : BitVec 32) =
      .setMode fmt exp flip := by
  obtain ⟨hfmt, hexp, hflip, -⟩ := extractLsb'_fourFields 0#28 (BitVec.ofBool flip) (BitVec.ofBool exp) fmt
  rw [assemble, hfmt, getLsbD_of_extractLsb'_one hexp, getLsbD_of_extractLsb'_one hflip]

/-- The word of GET_CFG (rule R74). -/
theorem encode_getCfg : encode .getCfg = 0x0300000000000000 := rfl

/-- The word of GET_STATUS (rule R74). -/
theorem encode_getStatus : encode .getStatus = 0x0400000000000000 := rfl

/-- The word of GET_FBLEN (rule R74). -/
theorem encode_getFblen : encode .getFblen = 0x0500000000000000 := rfl

/-- The word of GET_RDIM (rule R74). -/
theorem encode_getRdim : encode .getRdim = 0x0600000000000000 := rfl

end Sys2Proof

/-! The configuration and status commands (rules R211 to R218): when SET_GEOM stores, the layout of the four results
that read the registers, and what each command answers. -/

namespace Sys2Proof.Machine

open Sys2Proof

theorem exec_setGeom (w h : BitVec 16) (s : State) : exec (.setGeom w h) s = execSetGeom w h s := rfl

/-- SET_MODE sets the mode as a whole and answers OK, whatever its operands are (rule R213). -/
theorem exec_setMode (fmt : BitVec 2) (exp flip : Bool) (s : State) :
    exec (.setMode fmt exp flip) s = .next ((s.setModeFields fmt exp flip).answer .ok 0) := rfl

/-- GET_CFG answers the configuration and changes nothing else (rule R215). -/
theorem exec_getCfg (s : State) : exec .getCfg s = .next (s.answer .ok (cfgResult s)) := rfl

/-- GET_STATUS answers the flags and COUNT and changes nothing else (rule R216). -/
theorem exec_getStatus (s : State) : exec .getStatus s = .next (s.answer .ok (statusResult s)) := rfl

/-- GET_FBLEN answers FB_LEN and changes nothing else (rule R217). -/
theorem exec_getFblen (s : State) : exec .getFblen s = .next (s.answer .ok (fblenResult s)) := rfl

/-- GET_RDIM answers the raster's dimensions and changes nothing else (rule R218). -/
theorem exec_getRdim (s : State) : exec .getRdim s = .next (s.answer .ok (rdimResult s)) := rfl

/-- A legal geometry in numbers: neither side is 0, and the frame fits in FB (rules R30, R211). -/
theorem legalGeometry_iff_toNat (w h : BitVec 16) :
    legalGeometry w h = true ↔ w.toNat ≠ 0 ∧ h.toNat ≠ 0 ∧ w.toNat * h.toNat * 2 ≤ Config.fbCapacity := by
  rw [legalGeometry_iff, frameSize_eq, BitVec.toNat_ne, BitVec.toNat_ne]
  rfl

/-- SET_GEOM stores a legal geometry and discards a partial frame (rules R211, R212). -/
theorem execSetGeom_legal {w h : BitVec 16} (s : State) (hl : legalGeometry w h = true) :
    execSetGeom w h s = .next ((s.setGeometry w h).answer .ok 0) := by
  simp [execSetGeom, hl]

/-- SET_GEOM of any other geometry fails with BAD_CONFIG and changes nothing (rule R211). -/
theorem execSetGeom_illegal {w h : BitVec 16} (s : State) (hl : ¬ legalGeometry w h = true) :
    execSetGeom w h s = .next (s.answer .badConfig 0) := by
  simp [execSetGeom, hl]

/-- No FB holds a frame of 65535 by 65535 (rules R6, R211). -/
theorem not_legalGeometry_max : ¬ legalGeometry 65535 65535 = true := by
  intro hl
  obtain ⟨-, -, hfits⟩ := (legalGeometry_iff_toNat _ _).mp hl
  have hsize : (65535 : BitVec 16).toNat * (65535 : BitVec 16).toNat * 2 = 8589672450 := by decide
  have hcap := fbCapacity_bounds.2
  omega

/-- Where the fields of a GET_CFG result lie, and that the bits above them are 0 (rules R30, R31, R215). -/
theorem cfgResult_fields (s : State) :
    (cfgResult s).extractLsb' 0 16 = s.h ∧ (cfgResult s).extractLsb' 16 16 = s.w ∧
      (cfgResult s).extractLsb' 32 2 = s.fmt ∧ (cfgResult s).extractLsb' 34 1 = BitVec.ofBool s.exp ∧
      (cfgResult s).extractLsb' 35 1 = BitVec.ofBool s.flip ∧ (cfgResult s).extractLsb' 36 28 = 0 := by
  obtain ⟨hfmt, hexp, hflip, hzero⟩ :=
    extractLsb'_fourFields 0#28 (BitVec.ofBool s.flip) (BitVec.ofBool s.exp) s.fmt
  exact ⟨BitVec.extractLsb'_append_eq_right, extractLsb'_above s.h BitVec.extractLsb'_append_eq_right,
    extractLsb'_above s.h (extractLsb'_above s.w hfmt), extractLsb'_above s.h (extractLsb'_above s.w hexp),
    extractLsb'_above s.h (extractLsb'_above s.w hflip), extractLsb'_above s.h (extractLsb'_above s.w hzero)⟩

/-- Where the fields of a GET_STATUS result lie, and that the bits between them are 0 (rules R32, R216). -/
theorem statusResult_fields (s : State) :
    (statusResult s).extractLsb' 0 1 = BitVec.ofBool s.frameReady ∧
      (statusResult s).extractLsb' 1 1 = BitVec.ofBool s.rasterValid ∧
      (statusResult s).extractLsb' 2 1 = BitVec.ofBool s.modeValid ∧
      (statusResult s).extractLsb' 3 29 = 0 ∧ (statusResult s).extractLsb' 32 32 = s.count := by
  obtain ⟨hraster, hmode, hzero, hcount⟩ :=
    extractLsb'_fourFields s.count 0#29 (BitVec.ofBool s.modeValid) (BitVec.ofBool s.rasterValid)
  exact ⟨BitVec.extractLsb'_append_eq_right, extractLsb'_above _ hraster, extractLsb'_above _ hmode,
    extractLsb'_above _ hzero, extractLsb'_above _ hcount⟩

/-- The number a GET_FBLEN result is (rules R33, R217). -/
theorem fblenResult_toNat (s : State) : (fblenResult s).toNat = s.fbLen.toNat := by
  show BitVec.toNat (w := 32 + 32) (0#32 ++ s.fbLen) = _
  rw [BitVec.toNat_append]
  simp

/-- The number a GET_RDIM result is (rules R34, R218). -/
theorem rdimResult_toNat (s : State) : (rdimResult s).toNat = s.rastW.toNat * 65536 + s.rastH.toNat := by
  show BitVec.toNat (w := 32 + 16 + 16) (0#32 ++ s.rastW ++ s.rastH) = _
  rw [BitVec.toNat_append, ← Nat.shiftLeft_add_eq_or_of_lt s.rastH.isLt, BitVec.toNat_append]
  simp [Nat.shiftLeft_eq]

/-- Settles O13: the two clauses are the two equations of SET_GEOM, split by `legalGeometry_iff_toNat`, and the largest
geometry is never legal. -/
theorem setGeomStoresOrRefusesWhole : Obligations.SetGeomStoresOrRefusesWhole := by
  refine ⟨fun w h => ?_, fun s w h => ⟨fun hw hh hfits => ?_, fun hbad => ?_, ?_⟩⟩
  · rw [← encode_setGeom]
    exact decode_encode_of_assemble (Laws.Selects.setGeom w h) (assemble_setGeom w h)
  · exact execSetGeom_legal s ((legalGeometry_iff_toNat w h).mpr ⟨hw, hh, hfits⟩)
  · refine execSetGeom_illegal s fun hl => ?_
    obtain ⟨hw, hh, hfits⟩ := (legalGeometry_iff_toNat w h).mp hl
    omega
  · exact execSetGeom_illegal s not_legalGeometry_max

/-- Settles O15: the word is the encoding of SET_MODE, whose one outcome is `exec_setMode`. -/
theorem setModeStoresAllFields : Obligations.SetModeStoresAllFields := by
  refine ⟨fun fmt exp flip => ?_, fun s fmt exp flip => exec_setMode fmt exp flip s⟩
  rw [← encode_setMode]
  exact decode_encode_of_assemble (Laws.Selects.setMode fmt exp flip) (assemble_setMode fmt exp flip)

/-- Settles O16: every bit of the result lies in one of the fields of `cfgResult_fields`. -/
theorem getCfgReadsConfiguration : Obligations.GetCfgReadsConfiguration := by
  refine ⟨?_, fun s => ⟨cfgResult s, exec_getCfg s, ?_⟩⟩
  · rw [← encode_getCfg]
    exact decode_encode_of_assemble Laws.Selects.getCfg rfl
  · obtain ⟨hh, hw, hfmt, hexp, hflip, hzero⟩ := cfgResult_fields s
    exact ⟨hh, hw, hfmt, getLsbD_of_extractLsb'_one hexp, getLsbD_of_extractLsb'_one hflip, hzero⟩

/-- Settles O17: every bit of the result lies in one of the fields of `statusResult_fields`, and the invariant keeps
COUNT at 0 while a frame is held. -/
theorem getStatusReadsFlagsAndCount : Obligations.GetStatusReadsFlagsAndCount := by
  refine ⟨?_, fun s => ⟨statusResult s, exec_getStatus s, ?_⟩⟩
  · rw [← encode_getStatus]
    exact decode_encode_of_assemble Laws.Selects.getStatus rfl
  · obtain ⟨hframe, hraster, hmode, hzero, hcount⟩ := statusResult_fields s
    exact ⟨getLsbD_of_extractLsb'_one hframe, getLsbD_of_extractLsb'_one hraster, getLsbD_of_extractLsb'_one hmode,
      hzero, hcount, fun hgood hheld => hcount.trans (hgood.holding hheld)⟩

/-- Settles O18: the result is the number FB_LEN, which the invariant keeps at 0 while no frame is held. -/
theorem getFblenReadsFrameLength : Obligations.GetFblenReadsFrameLength := by
  refine ⟨?_, fun s => ⟨fblenResult s, exec_getFblen s, fblenResult_toNat s, fun hgood hnone => ?_⟩⟩
  · rw [← encode_getFblen]
    exact decode_encode_of_assemble Laws.Selects.getFblen rfl
  · rw [fblenResult, hgood.noFrame hnone]
    rfl

/-- Settles O19: the result is the number of the two dimensions, which the invariant keeps at 0 while there is no
raster. -/
theorem getRdimReadsRasterDimensions : Obligations.GetRdimReadsRasterDimensions := by
  refine ⟨?_, fun s => ⟨rdimResult s, exec_getRdim s, rdimResult_toNat s, fun hgood hnone => ?_⟩⟩
  · rw [← encode_getRdim]
    exact decode_encode_of_assemble Laws.Selects.getRdim rfl
  · obtain ⟨hw, hh⟩ := hgood.noRaster hnone
    rw [rdimResult, hw, hh]
    rfl

end Sys2Proof.Machine

/-! Words that select no row (rules R75, R243): they do not decode, so they change nothing but the responses. -/

namespace Sys2Proof.Machine

open Sys2Proof Sys2Proof.Reference

/-- A word that decodes selects the reference row of its own command (rules R74, R75). -/
theorem selects_own_row_of_decode {c : CmdWord} {i : Instr} (hc : decode c = .ok i) : c &&& (row i).2 = (row i).1 := by
  obtain ⟨-, o, -, hsel, rfl⟩ := decode_eq_ok_iff.mp hc
  rw [row_eq_matchWord_mask, assemble_opcode]
  exact hsel

/-- Settles O6: a word that decoded would select the row of its own command, so a word that selects no row does not
decode, and `step_illegal` says all that such a word does. -/
theorem illegalCommandChangesNoState : Obligations.IllegalCommandChangesNoState := by
  intro s c rest hs hnone
  cases hc : decode c with
  | error e => exact step_illegal hs hc
  | ok i => exact absurd (selects_own_row_of_decode hc) (hnone i)

end Sys2Proof.Machine

/-! The encoding (rules R70 to R76): every command's word is decoded back to it, a word that decodes is the word of
its command, and the rows of the opcode map select exactly the words that decode to them. -/

namespace Sys2Proof

/-- The word of every command selects its own row (rule R74). -/
theorem selects (i : Instr) : Laws.Selects.Statement i := by
  cases i with
  | setGeom w h => exact Laws.Selects.setGeom w h
  | setMode fmt exp flip => exact Laws.Selects.setMode fmt exp flip
  | getCfg => exact Laws.Selects.getCfg
  | getStatus => exact Laws.Selects.getStatus
  | getFblen => exact Laws.Selects.getFblen
  | getRdim => exact Laws.Selects.getRdim
  | rxByte b => exact Laws.Selects.rxByte b
  | rxEnd => exact Laws.Selects.rxEnd
  | decodeFrame => exact Laws.Selects.decodeFrame
  | rdPixel p => exact Laws.Selects.rdPixel p
  | fnClip8 x => exact Laws.Selects.fnClip8 x
  | fnRshr8 x => exact Laws.Selects.fnRshr8 x
  | fnYuv2rgb y u v => exact Laws.Selects.fnYuv2rgb y u v
  | fn565s w => exact Laws.Selects.fn565s w
  | fn565p w => exact Laws.Selects.fn565p w
  | fnLuma y => exact Laws.Selects.fnLuma y
  | fnYuyv2 y0 u y1 v => exact Laws.Selects.fnYuyv2 y0 u y1 v

/-- The signed operands are the integers a field A can carry (rule R71). -/
theorem inS32_iff_exists_toInt (x : Int) : inS32 x = true ↔ ∃ a : BitVec 32, a.toInt = x := by
  rw [inS32, Bool.and_eq_true, decide_eq_true_eq, decide_eq_true_eq]
  constructor
  · rintro ⟨hlo, hhi⟩
    exact ⟨BitVec.ofInt 32 x, BitVec.toInt_ofInt_eq_self (by decide) (by omega) (by omega)⟩
  · rintro ⟨a, rfl⟩
    have hlo := BitVec.le_toInt a
    have hhi := BitVec.toInt_lt (x := a)
    omega

/-- The pixel indices are the numbers a field A can carry (rule R71). -/
theorem inIdx_iff_exists_toNat (p : Nat) : inIdx p = true ↔ ∃ a : BitVec 32, a.toNat = p := by
  rw [inIdx, decide_eq_true_eq]
  constructor
  · exact fun hp => ⟨BitVec.ofNat 32 p, Nat.mod_eq_of_lt hp⟩
  · rintro ⟨a, rfl⟩
    exact a.isLt

/-- The row of a well-formed command reads the command back out of its operand field (rule R71). -/
theorem assemble_arg {i : Instr} (hwf : WellFormed i = true) : assemble i.opcode i.arg = i := by
  cases i with
  | setGeom w h => exact assemble_setGeom w h
  | setMode fmt exp flip => exact assemble_setMode fmt exp flip
  | rxByte b => exact assemble_rxByte b
  | rdPixel p =>
    obtain ⟨a, rfl⟩ := (inIdx_iff_exists_toNat p).mp hwf
    exact assemble_rdPixel a
  | fnClip8 x =>
    obtain ⟨a, rfl⟩ := (inS32_iff_exists_toInt x).mp hwf
    exact assemble_fnClip8 a
  | fnRshr8 x =>
    obtain ⟨a, rfl⟩ := (inS32_iff_exists_toInt x).mp hwf
    exact assemble_fnRshr8 a
  | fnYuv2rgb y u v => exact assemble_fnYuv2rgb y u v
  | fn565s w => exact assemble_fn565s w
  | fn565p w => exact assemble_fn565p w
  | fnLuma y => exact assemble_fnLuma y
  | fnYuyv2 y0 u y1 v => exact assemble_fnYuyv2 y0 u y1 v
  | getCfg | getStatus | getFblen | getRdim | rxEnd | decodeFrame => rfl

/-- Settles O2: the word of a command selects its row, which reads the command back out of the operand field. -/
theorem decodeOfEncodeIsTheCommand : Obligations.DecodeOfEncodeIsTheCommand := fun i hwf =>
  decode_encode_of_assemble (selects i) (assemble_arg hwf)

/-- A word is its three fields side by side (rule R70). -/
theorem word_eq_fields (c : CmdWord) : (opField c ++ rsvField c ++ argField c : BitVec 64) = c := by
  have hupper : opField c ++ rsvField c = c.extractLsb' 32 32 :=
    BitVec.extractLsb'_append_extractLsb'_eq_extractLsb' rfl
  rw [hupper]
  exact BitVec.extractLsb'_append_extractLsb'

/-- The fields of a word put together from three (rule R70). -/
theorem fields_append (op : BitVec 8) (rsv : BitVec 24) (a : BitVec 32) :
    opField (op ++ rsv ++ a) = op ∧ rsvField (op ++ rsv ++ a) = rsv ∧ argField (op ++ rsv ++ a) = a :=
  ⟨extractLsb'_above a BitVec.extractLsb'_append_eq_left, extractLsb'_above a BitVec.extractLsb'_append_eq_right,
    BitVec.extractLsb'_append_eq_right⟩

/-- A word that selects a row has the row's OP, RSV = 0, and no reserved bit of the row's format set (rule R74). -/
theorem fields_of_selects {c : CmdWord} {o : Opcode} (h : c &&& o.mask = o.matchWord) :
    opField c = o.code ∧ rsvField c = 0 ∧ argField c &&& o.format.reservedBits = 0 := by
  obtain ⟨mop, mrsv, marg⟩ := fields_append 0xFF#8 0xFFFFFF#24 o.format.reservedBits
  obtain ⟨wop, wrsv, warg⟩ := fields_append o.code 0#24 0#32
  have hop := congrArg opField h
  have hrsv := congrArg rsvField h
  have harg := congrArg argField h
  rw [opField, BitVec.extractLsb'_and] at hop
  rw [rsvField, BitVec.extractLsb'_and] at hrsv
  rw [argField, BitVec.extractLsb'_and] at harg
  refine ⟨?_, ?_, ?_⟩
  · calc opField c = opField c &&& 0xFF#8 := BitVec.and_allOnes.symm
      _ = opField c &&& opField o.mask := congrArg _ mop.symm
      _ = opField o.matchWord := hop
      _ = o.code := wop
  · calc rsvField c = rsvField c &&& 0xFFFFFF#24 := BitVec.and_allOnes.symm
      _ = rsvField c &&& rsvField o.mask := congrArg _ mrsv.symm
      _ = rsvField o.matchWord := hrsv
      _ = 0 := wrsv
  · calc argField c &&& o.format.reservedBits = argField c &&& argField o.mask := congrArg _ marg.symm
      _ = argField o.matchWord := harg
      _ = 0 := warg

/-- Reserved upper bits of which none is set are 0 (rules R71, R75). -/
theorem upper_eq_zero_of_reserved {m n : Nat} {a : BitVec (m + n)} (h : a &&& (BitVec.allOnes m ++ 0#n) = 0) :
    a.extractLsb' n m = 0#m := by
  have hand := congrArg (fun x => x.extractLsb' n m) h
  simpa [BitVec.extractLsb'_and, BitVec.extractLsb'_append_eq_left] using hand

/-- A field A with reserved upper bits, none of them set, is its lower bits alone (rules R71, R75). -/
theorem lower_of_reserved {m n : Nat} {a : BitVec (m + n)} (h : a &&& (BitVec.allOnes m ++ 0#n) = 0) :
    0#m ++ a.extractLsb' 0 n = a := by
  rw [← upper_eq_zero_of_reserved h]
  exact BitVec.extractLsb'_append_extractLsb'

/-- Four fields that cover a word, side by side, are the word. -/
theorem append_fourFields {k l m n : Nat} (a : BitVec (k + l + m + n)) :
    a.extractLsb' (l + m + n) k ++ a.extractLsb' (m + n) l ++ a.extractLsb' n m ++ a.extractLsb' 0 n = a := by
  have hkl : a.extractLsb' (l + m + n) k ++ a.extractLsb' (m + n) l = a.extractLsb' (m + n) (k + l) :=
    BitVec.extractLsb'_append_extractLsb'_eq_extractLsb' (by omega)
  have hklm : a.extractLsb' (m + n) (k + l) ++ a.extractLsb' n m = a.extractLsb' n (k + l + m) :=
    BitVec.extractLsb'_append_extractLsb'_eq_extractLsb' (by omega)
  rw [hkl, hklm]
  exact BitVec.extractLsb'_append_extractLsb'

/-- The field of one bit holds that bit. -/
theorem extractLsb'_one {n : Nat} (x : BitVec n) (k : Nat) : x.extractLsb' k 1 = BitVec.ofBool (x.getLsbD k) := by
  ext j hj
  obtain rfl : j = 0 := by omega
  simp

/-- The operand field of the command that a row has read from a field with no reserved bit set is that field (rules
R71, R75). -/
theorem arg_assemble {o : Opcode} {a : BitVec 32} (h : a &&& o.format.reservedBits = 0) : (assemble o a).arg = a := by
  cases o with
  | getCfg | getStatus | getFblen | getRdim | rxEnd | decodeFrame =>
    exact (BitVec.and_allOnes.symm.trans h).symm
  | setGeom => exact BitVec.extractLsb'_append_extractLsb'
  | setMode =>
    have hupper : a.extractLsb' 4 28 = 0#28 := upper_eq_zero_of_reserved (m := 28) (n := 4) h
    rw [assemble, Instr.arg, ← hupper, ← extractLsb'_one, ← extractLsb'_one]
    exact append_fourFields (k := 28) (l := 1) (m := 1) (n := 2) a
  | rxByte | fnLuma => exact lower_of_reserved (m := 24) (n := 8) h
  | fn565s | fn565p => exact lower_of_reserved (m := 16) (n := 16) h
  | rdPixel => exact ofNat_toNat_idx a
  | fnClip8 | fnRshr8 => exact BitVec.ofInt_toInt
  | fnYuv2rgb =>
    have hupper : a.extractLsb' 24 8 = 0#8 := upper_eq_zero_of_reserved (m := 8) (n := 24) h
    rw [assemble, Instr.arg, ← hupper]
    exact append_fourFields (k := 8) (l := 8) (m := 8) (n := 8) a
  | fnYuyv2 => exact append_fourFields (k := 8) (l := 8) (m := 8) (n := 8) a

/-- A row reads well-formed commands only (rule R71). -/
theorem wellFormed_assemble (o : Opcode) (a : BitVec 32) : WellFormed (assemble o a) = true := by
  cases o with
  | rdPixel => exact (inIdx_iff_exists_toNat _).mpr ⟨a, rfl⟩
  | fnClip8 | fnRshr8 => exact (inS32_iff_exists_toInt _).mpr ⟨a, rfl⟩
  | _ => rfl

/-- Settles O3: the word selects the row of its command, so its three fields are those of the command's word. -/
theorem encodeOfDecodeIsTheWord : Obligations.EncodeOfDecodeIsTheWord := by
  intro c i hc
  obtain ⟨-, o, -, hsel, rfl⟩ := decode_eq_ok_iff.mp hc
  obtain ⟨hop, hrsv, harg⟩ := fields_of_selects hsel
  refine ⟨wellFormed_assemble o (argField c), ?_⟩
  calc encode (assemble o (argField c)) = o.code ++ 0#24 ++ argField c := by
        rw [encode, assemble_opcode, arg_assemble harg]
    _ = opField c ++ rsvField c ++ argField c := by rw [hop, hrsv]; rfl
    _ = c := word_eq_fields c

/-- The worked encodings of 30_encoding.md section 6. -/
def workedEncodings : List (CmdWord × Instr) :=
  [(0x01000000014000F0, .setGeom 320 240), (0x0200000000000001, .setMode 1 false false),
    (0x020000000000000C, .setMode 0 true true), (0x10000000000000EB, .rxByte 0xEB),
    (0x1100000000000000, .rxEnd), (0x2000000000000000, .decodeFrame), (0x2100000000000005, .rdPixel 5),
    (0x30000000FFFFFFFF, .fnClip8 (-1)), (0x3200000000EB8080, .fnYuv2rgb 235 128 128),
    (0x330000000000F800, .fn565s 0xF800), (0x36000000801080EB, .fnYuyv2 235 128 16 128)]

theorem workedEncodings_encode : ∀ p ∈ workedEncodings, WellFormed p.2 = true ∧ encode p.2 = p.1 := by decide

/-- Settles O1: each word is the encoding of its command, and is therefore decoded back to it (O2). -/
theorem workedEncodingsDecodeAndEncode : Obligations.WorkedEncodingsDecodeAndEncode := by
  intro c i hmem
  obtain ⟨hwf, rfl⟩ : WellFormed i = true ∧ encode i = c := workedEncodings_encode (c, i) hmem
  exact ⟨decodeOfEncodeIsTheCommand i hwf, rfl⟩

end Sys2Proof

namespace Sys2Proof.Machine

open Sys2Proof Sys2Proof.Reference

/-- A word decodes to the command of the row it selects (rules R74, R75). -/
theorem decode_of_selects {c : CmdWord} {o : Opcode} (h : c &&& o.mask = o.matchWord) :
    decode c = .ok (assemble o (argField c)) := by
  obtain ⟨hop, hrsv, -⟩ := fields_of_selects h
  exact decode_eq_ok_iff.mpr ⟨hrsv, o, hop, h, rfl⟩

/-- Settles O4: a word that selects a row decodes to a command of that row, and a word that decodes selects the row
of its command. -/
theorem decodeSelectsTheTableRow : Obligations.DecodeSelectsTheTableRow := by
  intro c j
  constructor
  · intro hsel
    rw [row_eq_matchWord_mask] at hsel
    refine ⟨_, decode_of_selects hsel, ?_⟩
    rw [row_eq_matchWord_mask, row_eq_matchWord_mask, assemble_opcode]
  · rintro ⟨i, hc, hrow⟩
    rw [← hrow]
    exact selects_own_row_of_decode hc

/-- Settles O7: the decoder's command is the one the step runs, by `step_command`. -/
theorem stepRunsTheDecodedCommand : Obligations.StepRunsTheDecodedCommand := fun _ _ _ _ hs hc _ => step_command hs hc

/-- The word of a command, presented next, is the next input (log entry 6). -/
theorem withFetchWord_inputs (s : State) (c : CmdWord) :
    (s.withFetchWord 64 c.toNat).inputs = .command c :: s.inputs := by
  rw [State.withFetchWord, presentWord, Nat.mod_eq_of_lt c.isLt, BitVec.ofNat_toNat, BitVec.setWidth_eq]

/-- Settles O8: the presented word is the next input, and it decodes to the command (O2). -/
theorem presentedCommandRunsNext : Obligations.PresentedCommandRunsNext := fun s i hwf =>
  step_command (withFetchWord_inputs s (encode i)) (decodeOfEncodeIsTheCommand i hwf)

end Sys2Proof.Machine

/-! What a command does before it answers, said once for all commands: one effect for each way a command can end
(rules R101 to R103, R180 to R190, R211 to R218). -/

namespace Sys2Proof.Machine

open Sys2Proof Sys2Proof.Reference

/-- The first check of DECODE that fails, in the order of rule R250, if one does. -/
def firstFailure (s : State) : Option Status :=
  if s.frameReady = false then some .noFrame
  else if s.modeValid = false then some .notConfigured
  else if s.fmt = 3 then some .unsupportedFormat
  else if s.fbLen.toNat ≠ frameSize s.w s.h then some .sizeMismatch
  else if s.fmt = 1 ∧ s.w.toNat % 2 = 1 then some .badConfig
  else none

/-- No check fails first exactly when the reference's checks pass (rules R180 to R184). -/
theorem firstFailure_eq_none_iff (s : State) : firstFailure s = none ↔ checksPass s := by
  rw [firstFailure, checksPass, frameSize_eq]
  split_ifs <;> simp_all

/-- What the first failure of a held frame can be (rules R181 to R184). -/
theorem mem_of_firstFailure {s : State} {st : Status} (hr : s.frameReady = true) (hf : firstFailure s = some st) :
    st ∈ [Status.notConfigured, .unsupportedFormat, .sizeMismatch, .badConfig] := by
  rw [firstFailure] at hf
  split_ifs at hf <;> simp_all

/-- DECODE of a held frame ends with the first check that fails, and invalidates the raster (rules R185, R250). -/
theorem execDecodeFrame_fails {s : State} {st : Status} (hr : s.frameReady = true) (hf : firstFailure s = some st) :
    execDecodeFrame s = .next (s.consumeFrame.invalidateRaster.answer st 0) := by
  rw [firstFailure, if_neg (by simp [hr])] at hf
  split_ifs at hf with hm hfmt hl hodd <;> obtain rfl := Option.some.inj hf
  · exact execDecodeFrame_notConfigured hr hm
  · exact execDecodeFrame_unsupportedFormat hr (by simpa using hm) ((formatOfCode_eq_none_iff _).mpr hfmt)
  · obtain ⟨f, hfmt⟩ := formatOfCode_of_ne_three hfmt
    exact execDecodeFrame_sizeMismatch hr (by simpa using hm) hfmt hl
  · obtain ⟨hyuv, hodd⟩ := hodd
    exact execDecodeFrame_badConfig hr (by simpa using hm) ((formatOfCode_eq_some_iff _ _).mpr hyuv)
      (by simpa using hl) hodd

/-- DECODE whose checks pass is the raster loop of the frame's format, whose width is even under YUV422 (rule R180).
-/
theorem execDecodeFrame_passes {s : State} (hc : checksPass s) :
    ∃ f, formatOfCode s.fmt = some f ∧ (f = .yuv422 → s.w.toNat % 2 = 0) ∧
      execDecodeFrame s = decodeRaster f s.consumeFrame := by
  obtain ⟨hr, hm, hfmt, hl, heven⟩ := hc
  obtain ⟨f, hf⟩ := formatOfCode_of_ne_three hfmt
  have heven' : f = .yuv422 → s.w.toNat % 2 = 0 := fun hyuv =>
    heven ((formatOfCode_eq_some_iff _ .yuv422).mp (hyuv ▸ hf))
  exact ⟨f, hf, heven', execDecodeFrame_decodes hr hm hf hl heven'⟩

/-- The RESULT of the commands that only read the registers or compute on their operands: GET_* and FN_* (rules R125,
R126, R155 to R158, R173, R215 to R218). -/
def readResult : Instr → State → Option ResultWord
  | .getCfg, s => some (cfgResult s)
  | .getStatus, s => some (statusResult s)
  | .getFblen, s => some (fblenResult s)
  | .getRdim, s => some (rdimResult s)
  | .fnClip8 x, _ => some (u8Result (clip8 x))
  | .fnRshr8 x, _ => some (s64Result (rnd8 x))
  | .fnYuv2rgb y u v, _ => some (pixResult (yuv2rgb y u v))
  | .fn565s w, _ => some (pixResult (expandShift w))
  | .fn565p w, _ => some (pixResult (expandProp w))
  | .fnLuma y, _ => some (pixResult (grey y))
  | .fnYuyv2 y0 u y1 v, _ => some (pix2Result (yuv2rgb y0 u v) (yuv2rgb y1 u v))
  | .setGeom .., _ | .setMode .., _ | .rxByte _, _ | .rxEnd, _ | .decodeFrame, _ | .rdPixel _, _ => none

/-- A reading or pure command answers OK with its RESULT and changes nothing else. -/
theorem exec_of_readResult {i : Instr} {s : State} {v : ResultWord} (h : readResult i s = some v) :
    exec i s = .next (s.answer .ok v) := by
  cases i with
  | setGeom | setMode | rxByte | rxEnd | decodeFrame | rdPixel => cases h
  | _ => cases h; rfl

/-- A command either answers in every state or is one of RX_BYTE, RD_PIXEL and DECODE, which access a memory (log
entries 3 and 5). -/
theorem exec_completes_or_accesses (i : Instr) (s : State) :
    Completes (exec i s) ∨ (∃ b, i = .rxByte b) ∨ (∃ p, i = .rdPixel p) ∨ i = .decodeFrame := by
  cases i with
  | setGeom w h => exact .inl (by rcases execSetGeom_cases w h s with ⟨-, hx⟩ | ⟨-, hx⟩ <;> exact ⟨_, hx⟩)
  | rxEnd => exact .inl (by rcases execRxEnd_cases s with ⟨-, hx⟩ | ⟨-, hx⟩ <;> exact ⟨_, hx⟩)
  | rxByte b => exact .inr (.inl ⟨b, rfl⟩)
  | rdPixel p => exact .inr (.inr (.inl ⟨p, rfl⟩))
  | decodeFrame => exact .inr (.inr (.inr rfl))
  | _ => exact .inl ⟨_, rfl⟩

/-- `Effect s i u st v`: in state `s`, command `i` can leave the state `u` and then answer `st` with RESULT `v`. One
constructor for each way a command can end. -/
inductive Effect (s : State) : Instr → State → Status → ResultWord → Prop
  | reads {i : Instr} {v : ResultWord} (hv : readResult i s = some v) : Effect s i s .ok v
  | geometrySet {w h : BitVec 16} (hl : legalGeometry w h = true) : Effect s (.setGeom w h) (s.setGeometry w h) .ok 0
  | geometryRefused {w h : BitVec 16} : Effect s (.setGeom w h) s .badConfig 0
  | modeSet {fmt : BitVec 2} {exp flip : Bool} :
      Effect s (.setMode fmt exp flip) (s.setModeFields fmt exp flip) .ok 0
  | byteRefused {b : Byte} (hr : s.frameReady = true) : Effect s (.rxByte b) s .busy 0
  | byteCompletes {b : Byte} (hr : s.frameReady = false) (hc : s.count.toNat < Config.fbCapacity)
      (he : s.count.toNat + 1 = frameSize s.w s.h) :
      Effect s (.rxByte b)
        (({ s with fb := Memory.write s.fb s.count.toNat b } : State).completeFrame (frameSize s.w s.h)) .frameDone 0
  | byteCounted {b : Byte} (hr : s.frameReady = false) (hc : s.count.toNat < Config.fbCapacity)
      (he : s.count.toNat + 1 ≠ frameSize s.w s.h) :
      Effect s (.rxByte b) { s with fb := Memory.write s.fb s.count.toNat b, count := s.count + 1 } .ok 0
  | endRefused (hr : s.frameReady = true) : Effect s .rxEnd s .busy 0
  | endDiscards (hr : s.frameReady = false) : Effect s .rxEnd s.discardPartial .incompleteFrame 0
  | noFrame (hr : s.frameReady = false) : Effect s .decodeFrame s .noFrame 0
  | decodeFails {st : Status} (hr : s.frameReady = true) (hf : firstFailure s = some st) :
      Effect s .decodeFrame s.consumeFrame.invalidateRaster st 0
  | decodes {f : PixelFormat} {bytes : List Byte} (hc : checksPass s)
      (hb : rasterBytes f s.consumeFrame (s.w.toNat * s.h.toNat) 0 = .ok bytes)
      (hl : bytes.length ≤ Config.rasterCapacity) :
      Effect s .decodeFrame
        ({ s.consumeFrame with raster := Memory.writeBytes s.raster 0 bytes } : State).validateRaster .ok 0
  | pixelWithoutRaster {p : Nat} (hv : s.rasterValid = false) : Effect s (.rdPixel p) s .noRaster 0
  | pixelOutOfRange {p : Nat} (hv : s.rasterValid = true) (hp : s.rastW.toNat * s.rastH.toNat ≤ p) :
      Effect s (.rdPixel p) s .range 0
  | pixelRead {p : Nat} {q : Rgb} (hv : s.rasterValid = true) (hp : p < s.rastW.toNat * s.rastH.toNat)
      (hq : readPixel s p = .ok q) : Effect s (.rdPixel p) s .ok (pixResult q)

/-- DECODE has one of its three effects. -/
theorem effect_decodeFrame {s t : State} (h : execDecodeFrame s = .next t) :
    ∃ u st v, Effect s .decodeFrame u st v ∧ t = u.answer st v := by
  cases hf : firstFailure s with
  | none =>
    have hc := (firstFailure_eq_none_iff s).mp hf
    obtain ⟨f, -, -, hx⟩ := execDecodeFrame_passes hc
    obtain ⟨bytes, hb, hl, rfl⟩ := decodeRaster_spec (hx ▸ h)
    exact ⟨_, _, _, .decodes hc hb hl, rfl⟩
  | some st =>
    cases hr : s.frameReady with
    | false => exact ⟨_, _, _, .noFrame hr, next_inj.mp (h.symm.trans (execDecodeFrame_noFrame hr))⟩
    | true => exact ⟨_, _, _, .decodeFails hr hf, next_inj.mp (h.symm.trans (execDecodeFrame_fails hr hf))⟩

/-- Whatever next state a command answers, it is that of one of its effects. -/
theorem effect_of_exec {i : Instr} {s t : State} (h : exec i s = .next t) :
    ∃ u st v, Effect s i u st v ∧ t = u.answer st v := by
  cases i with
  | setGeom w hh =>
    rcases execSetGeom_cases w hh s with ⟨hl, hx⟩ | ⟨-, hx⟩
    · exact ⟨_, _, _, .geometrySet hl, next_inj.mp (h.symm.trans hx)⟩
    · exact ⟨_, _, _, .geometryRefused, next_inj.mp (h.symm.trans hx)⟩
  | setMode fmt exp flip => exact ⟨_, _, _, .modeSet, (next_inj.mp h).symm⟩
  | rxByte b =>
    rcases execRxByte_cases h with ⟨hr, rfl⟩ | ⟨hr, hc, ⟨he, rfl⟩ | ⟨he, rfl⟩⟩
    · exact ⟨_, _, _, .byteRefused hr, rfl⟩
    · exact ⟨_, _, _, .byteCompletes hr hc he, rfl⟩
    · exact ⟨_, _, _, .byteCounted hr hc he, rfl⟩
  | rxEnd =>
    rcases execRxEnd_cases s with ⟨hr, hx⟩ | ⟨hr, hx⟩
    · exact ⟨_, _, _, .endRefused hr, next_inj.mp (h.symm.trans hx)⟩
    · exact ⟨_, _, _, .endDiscards hr, next_inj.mp (h.symm.trans hx)⟩
  | decodeFrame => exact effect_decodeFrame h
  | rdPixel p =>
    rcases execRdPixel_cases h with ⟨hv, rfl⟩ | ⟨hv, hp, rfl⟩ | ⟨hv, hp, q, hq, rfl⟩
    · exact ⟨_, _, _, .pixelWithoutRaster hv, rfl⟩
    · exact ⟨_, _, _, .pixelOutOfRange hv hp, rfl⟩
    · exact ⟨_, _, _, .pixelRead hv hp hq, rfl⟩
  | getCfg | getStatus | getFblen | getRdim | fnClip8 | fnRshr8 | fnYuv2rgb | fn565s | fn565p | fnLuma | fnYuyv2 =>
    exact ⟨_, _, _, .reads rfl, (next_inj.mp h).symm⟩

/-- A reading or pure command answers nothing but OK (the table of 60_exceptions.md). -/
theorem statuses_of_readResult {i : Instr} {s : State} {v : ResultWord} (h : readResult i s = some v) :
    statuses i = [.ok] := by
  cases i with
  | setGeom | setMode | rxByte | rxEnd | decodeFrame | rdPixel => cases h
  | _ => rfl

/-- No command but the answer writes the responses, and none writes the inputs. -/
theorem Effect.keeps_interface {i : Instr} {s u : State} {st : Status} {v : ResultWord} (h : Effect s i u st v) :
    u.responses = s.responses ∧ u.inputs = s.inputs := by
  cases h <;> exact ⟨rfl, rfl⟩

/-- A command answers a status that the table lists for it (60_exceptions.md). -/
theorem Effect.status_mem {i : Instr} {s u : State} {st : Status} {v : ResultWord} (h : Effect s i u st v) :
    st ∈ statuses i := by
  cases h with
  | reads hv => simp [statuses_of_readResult hv]
  | decodeFails hr hf =>
    have hmem := mem_of_firstFailure hr hf
    simp only [statuses, List.mem_cons] at hmem ⊢
    tauto
  | _ => simp [statuses]

/-- A status other than OK and FRAME_DONE comes with RESULT 0 (rules R72, R246). -/
theorem Effect.result_eq_zero {i : Instr} {s u : State} {st : Status} {v : ResultWord} (h : Effect s i u st v)
    (hok : st ≠ .ok) : v = 0 := by
  cases h with
  | reads | pixelRead => exact absurd rfl hok
  | _ => rfl

/-- Settles O11: a word that does not decode is answered ILLEGAL_CMD by `step_illegal`, and a command answers by one
of its effects. -/
theorem everyCommandReturnsOneResponse : Obligations.EveryCommandReturnsOneResponse := by
  intro s t c rest hs h
  cases hc : decode c with
  | error e =>
    obtain rfl := next_inj.mp (h.symm.trans (step_illegal hs hc))
    exact ⟨rfl, _, rfl, fun _ _ => rfl, .inl ⟨⟨e, rfl⟩, rfl⟩⟩
  | ok i =>
    rw [step_command hs hc] at h
    obtain ⟨u, st, v, heff, rfl⟩ := effect_of_exec h
    obtain ⟨hresponses, hinputs⟩ := heff.keeps_interface
    exact ⟨hinputs, ⟨st, v⟩, by rw [State.answer_responses, hresponses], fun hok _ => heff.result_eq_zero hok,
      .inr ⟨i, rfl, heff.status_mem⟩⟩

end Sys2Proof.Machine

/-! The invariant (rules R26, R28 to R30, R51, R52): it holds at reset, every effect keeps it, and in a good state
every command completes. -/

namespace Sys2Proof.Machine

open Sys2Proof

/-- A run of bytes from index 0 on is written (rule R52). -/
theorem Written.writeBytes (m : Memory) (bytes : List Byte) : Written (Memory.writeBytes m 0 bytes) bytes.length := by
  intro i hi
  have hread := Memory.read_writeBytes_inside m 0 bytes hi
  rw [Nat.zero_add] at hread
  simp [hread]

/-- Whatever was there before, the reset input leaves a good state (rules R22, R270). -/
theorem GoodState.hardReset (s : State) : GoodState s.hardReset where
  geometry := ⟨(by decide : 1 ≤ (320 : BitVec 16).toNat), (by decide : 1 ≤ (240 : BitVec 16).toNat),
    Nat.le_trans (by decide : frameSize 320 240 ≤ Config.fbCapacityMin) fbCapacity_bounds.1⟩
  counting := fun _ => ⟨(by decide : 0 < frameSize 320 240), Written.zero _⟩
  holding := fun h => nomatch h
  frame := fun h => nomatch h
  noFrame := fun _ => rfl
  raster := fun h => nomatch h
  noRaster := fun _ => ⟨rfl, rfl⟩
  fbOk := ⟨Memory.wf_nil, Below.nil _⟩
  rasterOk := ⟨Memory.wf_nil, Below.nil _⟩

/-- Settles O55: the state at reset is what the reset input makes of it. -/
theorem resetStateIsGood : Obligations.ResetStateIsGood := GoodState.hardReset State.reset

section Effects

variable {s : State} (g : GoodState s)

include g

/-- A response keeps the invariant, which does not speak of the responses (log entry 2). -/
theorem GoodState.answer (st : Status) (v : ResultWord) : GoodState (s.answer st v) := { g with }

/-- Whatever is presented, the invariant does not speak of it (log entry 1). -/
theorem GoodState.withInputs (xs : List Input) : GoodState { s with inputs := xs } := { g with }

/-- Setting the mode keeps the invariant, which does not speak of it (rule R27). -/
theorem GoodState.setModeFields (fmt : BitVec 2) (exp flip : Bool) : GoodState (s.setModeFields fmt exp flip) :=
  { g with }

/-- A legal geometry is set, and no partial frame is left (rules R211, R212). -/
theorem GoodState.setGeometry {w h : BitVec 16} (hl : legalGeometry w h = true) : GoodState (s.setGeometry w h) := by
  obtain ⟨hw, hh, hfits⟩ := (legalGeometry_iff_toNat w h).mp hl
  have hpos : 0 < w.toNat * h.toNat := Nat.mul_pos (Nat.pos_of_ne_zero hw) (Nat.pos_of_ne_zero hh)
  exact { g with
    geometry := ⟨Nat.pos_of_ne_zero hw, Nat.pos_of_ne_zero hh, hfits⟩
    counting := fun _ => ⟨show 0 < w.toNat * h.toNat * 2 by omega, Written.zero _⟩
    holding := fun _ => rfl }

/-- A frame has at least one byte (rule R30). -/
theorem GoodState.frameSize_pos : 0 < frameSize s.w s.h := by
  obtain ⟨hw, hh, -⟩ := g.geometry
  exact Nat.mul_pos (Nat.mul_pos hw hh) (by decide)

/-- No partial frame is left (rule R103). -/
theorem GoodState.discardPartial : GoodState s.discardPartial :=
  { g with
    counting := fun _ => ⟨g.frameSize_pos, Written.zero _⟩
    holding := fun _ => rfl }

/-- FB keeps its form when the byte at COUNT is written (rule R101). -/
theorem GoodState.writeByte_fbOk (b : Byte) (hc : s.count.toNat < Config.fbCapacity) :
    Memory.wf (Memory.write s.fb s.count.toNat b) = true ∧
      Below (Memory.write s.fb s.count.toNat b) Config.fbCapacity := by
  obtain ⟨hwf, hbelow⟩ := g.fbOk
  exact ⟨Memory.write_wf _ b hwf, hbelow.write b hc⟩

/-- The last byte of a frame makes it a held frame, whole (rules R28, R101). -/
theorem GoodState.completeFrame (b : Byte) (hr : s.frameReady = false)
    (he : s.count.toNat + 1 = frameSize s.w s.h) :
    GoodState (({ s with fb := Memory.write s.fb s.count.toNat b } : State).completeFrame (frameSize s.w s.h)) := by
  obtain ⟨-, -, hcap⟩ := g.geometry
  obtain ⟨-, hwritten⟩ := g.counting hr
  have hlen : (BitVec.ofNat 32 (frameSize s.w s.h)).toNat = frameSize s.w s.h :=
    Nat.mod_eq_of_lt (by have := fbCapacity_bounds.2; omega)
  exact { g with
    counting := fun h => nomatch h
    holding := fun _ => rfl
    frame := fun _ => by
      rw [State.completeFrame_fbLen, hlen]
      exact ⟨g.frameSize_pos, hcap, he ▸ hwritten.write_succ b⟩
    noFrame := fun h => nomatch h
    fbOk := g.writeByte_fbOk b (by omega) }

/-- Any other byte is one more written byte of the partial frame (rules R26, R101). -/
theorem GoodState.countByte (b : Byte) (hr : s.frameReady = false) (he : s.count.toNat + 1 ≠ frameSize s.w s.h) :
    GoodState { s with fb := Memory.write s.fb s.count.toNat b, count := s.count + 1 } := by
  obtain ⟨-, -, hcap⟩ := g.geometry
  obtain ⟨hlt, hwritten⟩ := g.counting hr
  have hsucc : (s.count + 1).toNat = s.count.toNat + 1 := by
    rw [← ofNat_count_succ]
    exact Nat.mod_eq_of_lt (by have := fbCapacity_bounds.2; omega)
  exact { g with
    counting := fun _ => by
      rw [hsucc]
      exact ⟨Nat.lt_of_le_of_ne hlt he, hwritten.write_succ b⟩
    holding := fun h => by simp [hr] at h
    frame := fun h => by simp [hr] at h
    fbOk := g.writeByte_fbOk b (by omega) }

/-- A frame that is consumed leaves no partial frame, for COUNT was 0 (rules R26, R189). -/
theorem GoodState.consumeFrame (hr : s.frameReady = true) : GoodState s.consumeFrame := by
  have hzero : s.count.toNat = 0 := by rw [g.holding hr]; rfl
  exact { g with
    counting := fun _ => ⟨hzero ▸ g.frameSize_pos, hzero ▸ Written.zero _⟩
    holding := fun h => nomatch h
    frame := fun h => nomatch h
    noFrame := fun _ => rfl }

/-- An invalid raster has no dimensions (rules R29, R185). -/
theorem GoodState.invalidateRaster : GoodState s.invalidateRaster :=
  { g with
    raster := fun h => nomatch h
    noRaster := fun _ => ⟨rfl, rfl⟩ }

/-- A raster written from index 0 on with three bytes for each pixel of the geometry is whole (rules R29, R186). -/
theorem GoodState.validateRaster {bytes : List Byte} (hlen : bytes.length = 3 * (s.w.toNat * s.h.toNat))
    (hl : bytes.length ≤ Config.rasterCapacity) :
    GoodState ({ s with raster := Memory.writeBytes s.raster 0 bytes } : State).validateRaster := by
  obtain ⟨hw, hh, hcap⟩ := g.geometry
  obtain ⟨hwf, hbelow⟩ := g.rasterOk
  exact { g with
    raster := fun _ => ⟨hw, hh, hcap, hlen ▸ Written.writeBytes s.raster bytes⟩
    noRaster := fun h => nomatch h
    rasterOk := ⟨Memory.writeBytes_wf 0 bytes hwf, hbelow.writeBytes (by omega)⟩ }

/-- Every effect keeps the invariant. -/
theorem GoodState.effect {i : Instr} {u : State} {st : Status} {v : ResultWord} (h : Effect s i u st v) :
    GoodState u := by
  cases h with
  | geometrySet hl => exact g.setGeometry hl
  | modeSet => exact g.setModeFields ..
  | byteCompletes hr _ he => exact g.completeFrame _ hr he
  | byteCounted hr _ he => exact g.countByte _ hr he
  | endDiscards => exact g.discardPartial
  | decodeFails hr => exact (g.consumeFrame hr).invalidateRaster
  | decodes hc hb hl =>
    obtain ⟨hr, -⟩ := hc
    obtain ⟨hlen, -⟩ := rasterBytes_spec hb
    exact (g.consumeFrame hr).validateRaster hlen hl
  | _ => exact g

/-- Every command keeps the invariant. -/
theorem GoodState.exec {i : Instr} {t : State} (h : exec i s = .next t) : GoodState t := by
  obtain ⟨u, st, v, heff, rfl⟩ := effect_of_exec h
  exact (g.effect heff).answer st v

/-- RX_BYTE completes: while no frame is held, COUNT lies within FB (rules R26, R51). -/
theorem GoodState.rxByte_completes (b : Byte) : Completes (execRxByte b s) := by
  cases hr : s.frameReady with
  | true => exact ⟨_, execRxByte_held hr⟩
  | false =>
    obtain ⟨-, -, hcap⟩ := g.geometry
    obtain ⟨hlt, -⟩ := g.counting hr
    rw [execRxByte_stores hr (by omega)]
    by_cases he : s.count.toNat + 1 = frameSize s.w s.h
    · exact ⟨_, countByte_last he⟩
    · exact ⟨_, countByte_other he⟩

/-- DECODE completes: a held frame has all its bytes, within FB (rule R28). -/
theorem GoodState.decodeFrame_completes : Completes (execDecodeFrame s) := by
  cases hr : s.frameReady with
  | false => exact ⟨_, execDecodeFrame_noFrame hr⟩
  | true =>
    cases hf : firstFailure s with
    | some st => exact ⟨_, execDecodeFrame_fails hr hf⟩
    | none =>
      have hc := (firstFailure_eq_none_iff s).mp hf
      obtain ⟨f, -, heven, hx⟩ := execDecodeFrame_passes hc
      obtain ⟨-, -, -, hlen, -⟩ := hc
      obtain ⟨-, hcap, hwritten⟩ := g.frame hr
      rw [hlen] at hcap hwritten
      exact hx ▸ decodeRaster_completes hwritten hcap heven

/-- RD_PIXEL completes: a valid raster has all its bytes, within RASTER (rule R29). -/
theorem GoodState.rdPixel_completes (p : Nat) : Completes (execRdPixel p s) := by
  cases hv : s.rasterValid with
  | false => exact ⟨_, execRdPixel_noRaster p hv⟩
  | true =>
    by_cases hp : s.rastW.toNat * s.rastH.toNat ≤ p
    · exact ⟨_, execRdPixel_range hv hp⟩
    · obtain ⟨-, -, hcap, hwritten⟩ := g.raster hv
      have hfits := raster_fits hcap
      obtain ⟨r, hr⟩ := Option.isSome_iff_exists.mp (hwritten (3 * p) (by omega))
      obtain ⟨gr, hg⟩ := Option.isSome_iff_exists.mp (hwritten (3 * p + 1) (by omega))
      obtain ⟨b, hb⟩ := Option.isSome_iff_exists.mp (hwritten (3 * p + 2) (by omega))
      have hq : readPixel s p = .ok ⟨r, gr, b⟩ := readPixel_of_hasPixel (by omega) ⟨hr, hg, hb⟩
      exact ⟨_, execRdPixel_reads hv (by omega) hq⟩

/-- In a good state every command completes. -/
theorem GoodState.exec_completes (i : Instr) : Completes (Machine.exec i s) := by
  rcases exec_completes_or_accesses i s with hx | ⟨b, rfl⟩ | ⟨p, rfl⟩ | rfl
  · exact hx
  · exact g.rxByte_completes b
  · exact g.rdPixel_completes p
  · exact g.decodeFrame_completes

/-- In a good state a step completes. -/
theorem GoodState.step_completes : Completes (step s) := by
  rcases step_cases s with ⟨-, hx⟩ | ⟨rest, -, hx⟩ | ⟨c, rest, e, -, -, hx⟩ | ⟨c, rest, i, -, -, hx⟩
  · exact ⟨_, hx⟩
  · exact ⟨_, hx⟩
  · exact ⟨_, hx⟩
  · exact hx ▸ (g.withInputs rest).exec_completes i

/-- Every step keeps the invariant. -/
theorem GoodState.step {t : State} (h : step s = .next t) : GoodState t := by
  rcases step_cases s with ⟨-, hx⟩ | ⟨rest, -, hx⟩ | ⟨c, rest, e, -, -, hx⟩ | ⟨c, rest, i, -, -, hx⟩
  · exact next_inj.mp (hx.symm.trans h) ▸ g
  · exact next_inj.mp (hx.symm.trans h) ▸ GoodState.hardReset _
  · exact next_inj.mp (hx.symm.trans h) ▸ (g.withInputs rest).answer _ _
  · exact (g.withInputs rest).exec (hx.symm.trans h)

/-- A run from a good state completes in a good state, whatever its length. -/
theorem GoodState.run (n : Nat) : ∃ t, core.run n s = .next t ∧ GoodState t := by
  induction n generalizing s with
  | zero => exact ⟨s, run_zero s, g⟩
  | succ n ih =>
    obtain ⟨u, hu⟩ := g.step_completes
    rw [run_succ hu]
    exact ih (g.step hu)

end Effects

/-- Settles O56: the input that the step takes resets, is refused, or runs a command, and each keeps the invariant. -/
theorem everyStepKeepsTheInvariant : Obligations.EveryStepKeepsTheInvariant := fun _ _ g h => g.step h

/-- Settles O57: every command completes, by one of its effects, which keep the invariant and the responses. -/
theorem goodStatesNeverStop : Obligations.GoodStatesNeverStop := by
  intro s g
  refine ⟨g.step_completes, fun i => ?_⟩
  obtain ⟨t, h⟩ := g.exec_completes i
  obtain ⟨u, st, v, heff, rfl⟩ := effect_of_exec h
  obtain ⟨hresponses, -⟩ := heff.keeps_interface
  exact ⟨_, ⟨st, v⟩, h, g.exec h, by rw [State.answer_responses, hresponses]⟩

/-- Settles O58, by induction on the number of steps (`GoodState.run`). -/
theorem goodStatesRunForever : Obligations.GoodStatesRunForever := fun n _ xs g => (g.withInputs xs).run n

end Sys2Proof.Machine

/-! The whole machine (rules R22, R35, R56, R60): which commands write each register, when the status flags change,
and what the reading commands leave unchanged. -/

namespace Sys2Proof.Machine

open Sys2Proof Sys2Proof.Reference

/-- Settles O52: each effect writes the registers that the table lists for its command, and no other. -/
theorem onlyListedCommandsWriteEachRegister : Obligations.OnlyListedCommandsWriteEachRegister := by
  intro i s t h
  obtain ⟨u, st, v, heff, rfl⟩ := effect_of_exec h
  cases heff <;> simp

/-- A DECODE whose check fails does not answer OK (rules R181 to R184). -/
theorem ne_ok_of_firstFailure {s : State} {st : Status} (hr : s.frameReady = true) (hf : firstFailure s = some st) :
    st ≠ .ok := by
  rintro rfl
  simpa using mem_of_firstFailure hr hf

/-- Settles O53: of all effects, a completing RX_BYTE alone sets FRAME_READY, DECODE alone clears it and changes
RASTER_VALID, and SET_MODE alone sets MODE_VALID. -/
theorem statusFlagsChangeOnlyAsListed : Obligations.StatusFlagsChangeOnlyAsListed := by
  intro i s t h
  obtain ⟨u, st, v, heff, rfl⟩ := effect_of_exec h
  cases heff with
  | reads hv =>
    have hi : i ≠ .decodeFrame := by
      rintro rfl
      cases hv
    simp_all
  | decodeFails hr hf => simp [hr, ne_ok_of_firstFailure hr hf]
  | decodes hc =>
    obtain ⟨hr, -⟩ := hc
    simp [hr]
  | noFrame hr | byteCompletes hr | byteCounted hr | endDiscards hr => simp [hr]
  | _ => simp_all

/-- An answer is the status and the RESULT it gives. -/
theorem answer_inj {s : State} {a b : Status} {v w : ResultWord} (h : s.answer a v = s.answer b w) : a = b ∧ v = w := by
  have hresponses := congrArg State.responses h
  simpa using hresponses

/-- What RD_PIXEL answers depends on the raster and its registers only (rules R60, R190). -/
theorem execRdPixel_congr {s t : State} {p : Nat} {st : Status} {v : ResultWord}
    (hvalid : t.rasterValid = s.rasterValid) (hw : t.rastW = s.rastW) (hh : t.rastH = s.rastH)
    (hraster : t.raster = s.raster)
    (h : execRdPixel p s = .next (s.answer st v)) : execRdPixel p t = .next (t.answer st v) := by
  rcases execRdPixel_cases h with ⟨hv, ha⟩ | ⟨hv, hp, ha⟩ | ⟨hv, hp, q, hq, ha⟩ <;>
    obtain ⟨rfl, rfl⟩ := answer_inj ha
  · exact execRdPixel_noRaster p (hvalid.trans hv)
  · exact execRdPixel_range (hvalid.trans hv) (by rwa [hw, hh])
  · exact execRdPixel_reads (hvalid.trans hv) (by rwa [hw, hh]) ((readPixel_congr hraster p).trans hq)

/-- Settles O36: no effect but DECODE's writes the raster or its registers (O52), on which alone RD_PIXEL depends. -/
theorem rasterOutlivesTheNextFrame : Obligations.RasterOutlivesTheNextFrame := by
  intro s t i p st v hi h hread
  obtain ⟨-, -, -, -, hraster, -⟩ := onlyListedCommandsWriteEachRegister i s t h
  have hkept := mt hraster hi
  simp only [not_or, not_not] at hkept
  obtain ⟨hvalid, hw, hh, hmem⟩ := hkept
  exact execRdPixel_congr hvalid hw hh hmem hread

/-- A reading or pure command reads the same after any answer: no RESULT depends on the responses. -/
theorem readResult_answer (i : Instr) (s : State) (st : Status) (v : ResultWord) :
    readResult i (s.answer st v) = readResult i s := by
  cases i <;> rfl

/-- A command that only answers is one of GET_* and FN_*, or RD_PIXEL, and answers the same when it is repeated. -/
theorem exec_repeats {i : Instr} {s : State} {st : Status} {v : ResultWord}
    (hi : readResult i s ≠ none ∨ ∃ p, i = .rdPixel p) (h : exec i s = .next (s.answer st v)) :
    exec i (s.answer st v) = .next ((s.answer st v).answer st v) := by
  rcases hi with hi | ⟨p, rfl⟩
  · obtain ⟨w, hw⟩ := Option.ne_none_iff_exists'.mp hi
    obtain ⟨rfl, rfl⟩ := answer_inj (next_inj.mp (h.symm.trans (exec_of_readResult hw)))
    exact exec_of_readResult ((readResult_answer i s _ _).trans hw)
  · exact execRdPixel_congr (s := s) (t := s.answer st v) rfl rfl rfl rfl h

/-- Settles O54: the commands left are those that read or compute and RD_PIXEL, whose effects leave the state as it is
and are the same after their own answer. -/
theorem readingCommandsChangeNothing : Obligations.ReadingCommandsChangeNothing := by
  intro i s t hgeom hmode hbyte hend hdec h
  obtain ⟨u, st, v, heff, rfl⟩ := effect_of_exec h
  have hread : u = s ∧ (readResult i s ≠ none ∨ ∃ p, i = .rdPixel p) := by
    cases heff with
    | reads hv => exact ⟨rfl, .inl (by simp [hv])⟩
    | pixelWithoutRaster | pixelOutOfRange | pixelRead => exact ⟨rfl, .inr ⟨_, rfl⟩⟩
    | _ => simp_all
  obtain ⟨rfl, hi⟩ := hread
  exact ⟨rfl, _, exec_repeats hi h, rfl, rfl⟩

/-- Settles O20: an accepted SET_GEOM has set the geometry and SET_MODE the mode, and GET_CFG reads both. -/
theorem configurationReadsBackAsWritten : Obligations.ConfigurationReadsBackAsWritten := by
  intro s t u w h fmt exp flip hset hok hmode
  obtain rfl := next_inj.mp (hmode.symm.trans (exec_setMode fmt exp flip t))
  refine ⟨_, exec_getCfg _, ?_⟩
  rcases execSetGeom_cases w h s with ⟨-, hx⟩ | ⟨-, hx⟩ <;> obtain rfl := next_inj.mp (hset.symm.trans hx)
  · rfl
  · simp at hok

/-- Settles O14: 320 by 240 fits in the least capacity, and 321 by 240 is a frame of 154080 bytes. -/
theorem geometryAcceptanceFollowsCapacity : Obligations.GeometryAcceptanceFollowsCapacity := by
  intro s
  have hcap := fbCapacity_bounds.1
  have hsize : (320 : BitVec 16).toNat * (240 : BitVec 16).toNat * 2 = 153600 := by decide
  have hsize' : (321 : BitVec 16).toNat * (240 : BitVec 16).toNat * 2 = 154080 := by decide
  have hlegal : legalGeometry 321 240 = true ↔ 154080 ≤ Config.fbCapacity := by
    rw [legalGeometry_iff_toNat, hsize']
    exact ⟨fun ⟨_, _, hfits⟩ => hfits, fun hfits => ⟨by decide, by decide, hfits⟩⟩
  refine ⟨execSetGeom_legal s ((legalGeometry_iff_toNat _ _).mpr ⟨by decide, by decide, by omega⟩), ?_⟩
  rw [← hlegal]
  refine ⟨fun hx => ?_, execSetGeom_legal s⟩
  by_contra hbad
  have ht := next_inj.mp (hx.symm.trans (execSetGeom_illegal s hbad))
  simpa using congrArg State.responses ht

/-- Settles O9: of the four kinds of step, the idle one keeps the state. -/
theorem idleStepKeepsAllState : Obligations.IdleStepKeepsAllState := by
  intro s hs
  rcases step_cases s with ⟨-, hx⟩ | ⟨rest, hin, -⟩ | ⟨c, rest, e, hin, -⟩ | ⟨c, rest, i, hin, -⟩
  · exact hx
  all_goals simp [hs] at hin

/-- Settles O10: the step that takes the reset input resets, and the reset values are those of rule R22. -/
theorem resetInputSetsResetValues : Obligations.ResetInputSetsResetValues := by
  intro s rest hs
  rcases step_cases s with ⟨hin, -⟩ | ⟨rest', hin, hx⟩ | ⟨c, rest', e, hin, -⟩ | ⟨c, rest', i, hin, -⟩
  · simp [hs] at hin
  · obtain rfl : rest = rest' := (List.cons.inj (hs.symm.trans hin)).2
    exact hx
  · simp [hs] at hin
  · simp [hs] at hin

/-- The twelve statuses in the order of their numbers (rule R240). -/
def Status.all : List Status :=
  [.ok, .frameDone, .incompleteFrame, .sizeMismatch, .unsupportedFormat, .notConfigured, .noFrame, .busy, .badConfig,
    .noRaster, .range, .illegalCmd]

/-- The code of a status is its place in the table (rule R240). -/
theorem Status.all_code (a : Status) : Status.all[a.code.toNat]? = some a := by
  cases a <;> rfl

/-- No two statuses have one code (rule R240). -/
theorem Status.code_injective : Function.Injective Status.code := fun a b h =>
  Option.some.inj (by rw [← Status.all_code a, h, Status.all_code])

/-- Settles O12: the code is the place in a table of twelve statuses. -/
theorem statusCodesAreNumbered : Obligations.StatusCodesAreNumbered := by
  refine ⟨by decide, fun a b => ⟨?_, fun h => Status.code_injective h⟩⟩
  obtain ⟨hlt, -⟩ := List.getElem?_eq_some_iff.mp a.all_code
  exact hlt

end Sys2Proof.Machine

/-! Streams of bytes (rules R100 to R107): what the reader holds after any number of bytes, whole frames, short
streams, and that byte values do not matter to it. -/

namespace Sys2Proof.Machine

open Sys2Proof Sys2Proof.Reference

/-- A run of bytes written from index 0 on is read back, each byte from its place. -/
theorem Memory.read_writeBytes_getElem? {m : Memory} {bs : List Byte} {i : Nat} {b : Byte} (h : bs[i]? = some b) :
    Memory.read (Memory.writeBytes m 0 bs) i = some b := by
  obtain ⟨hlt, rfl⟩ := List.getElem?_eq_some_iff.mp h
  simpa using Memory.read_writeBytes_inside m 0 bs hlt

/-- Two runs of writes, one after the other, are one. -/
theorem Memory.writeBytes_append (m : Memory) (i : Nat) (xs ys : List Byte) :
    Memory.writeBytes m i (xs ++ ys) = Memory.writeBytes (Memory.writeBytes m i xs) (i + xs.length) ys := by
  induction xs generalizing m i with
  | nil => rfl
  | cons x xs ih =>
    rw [List.cons_append, Memory.writeBytes, Memory.writeBytes, ih, List.length_cons, Nat.add_right_comm, Nat.add_assoc]

/-- The state after the bytes `bs` have been stored and counted, none of them the last of its frame (rule R101). -/
def State.receive (s : State) (bs : List Byte) : State :=
  { s with fb := Memory.writeBytes s.fb s.count.toNat bs
           count := BitVec.ofNat 32 (s.count.toNat + bs.length)
           responses := List.replicate bs.length ⟨.ok, 0⟩ ++ s.responses }

@[simp] theorem State.receive_nil (s : State) : s.receive [] = s := by
  simp [State.receive, Memory.writeBytes]

/-- The count after the bytes, while it fits in its register (rule R26). -/
theorem State.receive_count_toNat {s : State} {bs : List Byte} (h : s.count.toNat + bs.length < 4294967296) :
    (s.receive bs).count.toNat = s.count.toNat + bs.length := Nat.mod_eq_of_lt h

/-- Bytes that arrive one after the other arrive in the places of one stream. -/
theorem State.receive_cons {s : State} (b : Byte) (bs : List Byte) (h : s.count.toNat + 1 < 4294967296) :
    (s.receive [b]).receive bs = s.receive (b :: bs) := by
  have hcount : (s.receive [b]).count.toNat = s.count.toNat + 1 := State.receive_count_toNat h
  rw [State.receive, hcount]
  simp [State.receive, Memory.writeBytes, List.replicate_succ', Nat.add_assoc, Nat.add_comm 1]

/-- A byte that is not the last of its frame is received (rule R101). -/
theorem execRxByte_receives {b : Byte} {s : State} (hr : s.frameReady = false)
    (hlt : s.count.toNat + 1 < frameSize s.w s.h) (hcap : frameSize s.w s.h ≤ Config.fbCapacity) :
    execRxByte b s = .next (s.receive [b]) := by
  rw [execRxByte_stores hr (by omega)]
  exact countByte_other (Nat.ne_of_lt hlt)

/-- The state with other pending inputs (log entry 1). -/
def State.withInputs (s : State) (xs : List Input) : State := { s with inputs := xs }

/-- The step that takes a word runs its command on the state with the inputs that follow (rules R10, R75). -/
theorem step_withInputs (s : State) {c : CmdWord} {i : Instr} (rest : List Input) (hc : decode c = .ok i) :
    step (s.withInputs (.command c :: rest)) = exec i (s.withInputs rest) :=
  step_command (s := s.withInputs (.command c :: rest)) rfl hc

/-- The step that takes an RX_BYTE word runs RX_BYTE (rules R71, R74). -/
theorem step_rxByte (s : State) (b : Byte) (rest : List Input) :
    step (s.withInputs (rxInputs [b] ++ rest)) = execRxByte b (s.withInputs rest) :=
  step_withInputs s rest (rxByteStoresAndCounts.1 b)

/-- A run over bytes that do not complete the frame goes on with the bytes received (rules R100, R101). -/
theorem run_rxInputs {s : State} {bs : List Byte} (n : Nat) (rest : List Input) (hr : s.frameReady = false)
    (hlt : s.count.toNat + bs.length < frameSize s.w s.h) (hcap : frameSize s.w s.h ≤ Config.fbCapacity) :
    core.run (bs.length + n) (s.withInputs (rxInputs bs ++ rest)) = core.run n ((s.receive bs).withInputs rest) := by
  have hmax := fbCapacity_bounds.2
  induction bs generalizing s with
  | nil => rw [State.receive_nil, List.length_nil, Nat.zero_add]; rfl
  | cons b bs ih =>
    rw [List.length_cons] at hlt
    have hcount : (s.receive [b]).count.toNat = s.count.toNat + 1 := State.receive_count_toNat (by simp; omega)
    have hstep : step (s.withInputs (rxInputs (b :: bs) ++ rest)) =
        .next ((s.receive [b]).withInputs (rxInputs bs ++ rest)) :=
      (step_rxByte s b (rxInputs bs ++ rest)).trans
        (execRxByte_receives hr (show s.count.toNat + 1 < frameSize s.w s.h by omega) hcap)
    have hlt' : s.count.toNat + 1 + bs.length < frameSize s.w s.h := by omega
    rw [List.length_cons, Nat.add_right_comm, run_succ hstep, ih (s := s.receive [b]) hr (by rwa [hcount]) hcap,
      State.receive_cons b bs (by omega)]

/-- The byte that makes `W * H * 2` completes the frame (rule R101). -/
theorem run_lastByte {s : State} (b : Byte) (rest : List Input) (hr : s.frameReady = false)
    (he : s.count.toNat + 1 = frameSize s.w s.h) (hcap : frameSize s.w s.h ≤ Config.fbCapacity) :
    core.run 1 (s.withInputs (rxInputs [b] ++ rest)) =
      .next ((({ s with fb := Memory.write s.fb s.count.toNat b, inputs := rest } : State).completeFrame
        (s.count.toNat + 1)).answer .frameDone 0) :=
  run_succ ((step_rxByte s b rest).trans
    ((execRxByte_stores (s := s.withInputs rest) hr (show s.count.toNat < _ by omega)).trans (countByte_last he)))

/-- Settles O23: all bytes but the last are received (`run_rxInputs`), and the last one completes the frame
(`run_lastByte`). -/
theorem wholeFrameIsAssembled : Obligations.WholeFrameIsAssembled := by
  intro s bs rest g hr hzero hlen
  obtain ⟨-, -, hcap⟩ := g.geometry
  have hcount : s.count.toNat = 0 := by rw [hzero]; rfl
  have hbs : bs ≠ [] := List.ne_nil_of_length_pos (hlen ▸ g.frameSize_pos)
  refine ⟨Memory.writeBytes s.fb 0 bs, fun i b => Memory.read_writeBytes_getElem?,
    fun i hi => Memory.read_writeBytes_other _ _ (by omega), ?_⟩
  obtain ⟨init, b, rfl⟩ := (List.eq_nil_or_concat bs).resolve_left hbs
  rw [List.concat_eq_append, List.length_append, List.length_singleton] at hlen ⊢
  have hsize : init.length + 1 = frameSize s.w s.h := hlen
  have hinit : (s.receive init).count.toNat = init.length := by
    have := fbCapacity_bounds.2
    rw [State.receive_count_toNat (by omega), hcount, Nat.zero_add]
  have hinputs : rxInputs (init ++ [b]) ++ rest = rxInputs init ++ (rxInputs [b] ++ rest) := by
    simp [rxInputs]
  have hrun := (run_rxInputs 1 (rxInputs [b] ++ rest) hr (by omega) hcap).trans
    (run_lastByte (s := s.receive init) b rest hr (by rwa [hinit]) hcap)
  rw [hinputs]
  refine hrun.trans ?_
  rw [hinit, Memory.writeBytes_append]
  simp [State.receive, State.answer, State.completeFrame, hzero, Memory.writeBytes]

/-- RX_END and then DECODE, after a partial frame: it is discarded, and there is none to decode (rules R103, R180). -/
theorem run_rxEnd_decodeFrame {s : State} (rest : List Input) (hr : s.frameReady = false) :
    core.run 2 (s.withInputs (.command 0x1100000000000000 :: .command 0x2000000000000000 :: rest)) =
      .next (((s.withInputs rest).discardPartial.answer .incompleteFrame 0).answer .noFrame 0) := by
  obtain ⟨hwordEnd, hend⟩ := rxEndDiscardsPartialFrame
  obtain ⟨hwordDecode, -⟩ := decodeFailsWithFirstCheck
  have hfirst := (step_withInputs s (.command 0x2000000000000000 :: rest) hwordEnd).trans ((hend _).2 hr)
  have hsecond := (step_withInputs (s.discardPartial.answer .incompleteFrame 0) rest hwordDecode).trans
    (execDecodeFrame_noFrame hr)
  exact (run_succ hfirst).trans (run_succ hsecond)

/-- Settles O24: the bytes are received (`run_rxInputs`), RX_END discards them, and DECODE finds no frame
(`run_rxEnd_decodeFrame`). -/
theorem shortStreamIsReportedIncomplete : Obligations.ShortStreamIsReportedIncomplete := by
  intro s bs rest g hr hzero hlen
  obtain ⟨-, -, hcap⟩ := g.geometry
  have hcount : s.count.toNat = 0 := by rw [hzero]; rfl
  refine ⟨Memory.writeBytes s.fb 0 bs, fun i b => Memory.read_writeBytes_getElem?,
    fun i hi => Memory.read_writeBytes_other _ _ (by omega), ?_⟩
  have hrun := (run_rxInputs 2 _ hr (by rwa [hcount, Nat.zero_add]) hcap).trans
    (run_rxEnd_decodeFrame (s := s.receive bs) rest hr)
  refine hrun.trans ?_
  simp [State.receive, State.withInputs, State.answer, State.discardPartial, hzero]

/-- Storing a byte in FB commutes with counting it: the reader does not read FB (rule R105). -/
theorem countByte_of_fb (s : State) : ∃ u : State, ∀ fb, countByte { s with fb := fb } = .next { u with fb := fb } := by
  by_cases he : s.count.toNat + 1 = frameSize s.w s.h
  · exact ⟨(s.completeFrame (s.count.toNat + 1)).answer .frameDone 0, fun _ => countByte_last he⟩
  · exact ⟨({ s with count := BitVec.ofNat 32 (s.count.toNat + 1) } : State).answer .ok 0,
      fun _ => countByte_other he⟩

/-- Settles O25: the byte is stored and then counted, and counting does not look at FB (`countByte_of_fb`). -/
theorem readerIgnoresByteValues : Obligations.ReaderIgnoresByteValues := by
  intro s t a b h
  rcases execRxByte_cases h with ⟨hr, rfl⟩ | ⟨hr, hc, -⟩
  · exact ⟨s.fb, execRxByte_held hr, fun _ _ => rfl⟩
  · obtain ⟨u, hcount⟩ := countByte_of_fb s
    have hx : ∀ v, exec (.rxByte v) s = .next { u with fb := Memory.write s.fb s.count.toNat v } := fun v =>
      (execRxByte_stores hr hc).trans (hcount _)
    obtain rfl := next_inj.mp (h.symm.trans (hx a))
    refine ⟨Memory.write s.fb s.count.toNat b, hx b, fun i hi => ?_⟩
    rw [Memory.read_write_other _ _ hi, Memory.read_write_other _ _ hi]

end Sys2Proof.Machine

/-! Decoded frames (rules R180 to R191): reading the raster back, and what the raster depends on. -/

namespace Sys2Proof.Machine

open Sys2Proof Sys2Proof.Reference

/-- A DECODE that answers OK has passed its checks (rules R180 to R184). -/
theorem checksPass_of_ok {s t : State} {v : ResultWord} {rs : List Response} (h : exec .decodeFrame s = .next t)
    (hok : t.responses = ⟨.ok, v⟩ :: rs) : checksPass s := by
  obtain ⟨u, st, w, heff, rfl⟩ := effect_of_exec h
  cases heff with
  | reads hv => cases hv
  | noFrame => simp at hok
  | decodeFails hr hf => simp [ne_ok_of_firstFailure hr hf] at hok
  | decodes hc => exact hc

/-- A DECODE whose checks pass and which answers has run the raster loop of the frame's format (rule R180). -/
theorem decodeRaster_of_checksPass {s t : State} (hc : checksPass s) (h : exec .decodeFrame s = .next t) :
    ∃ f, formatOfCode s.fmt = some f ∧ (f = .yuv422 → s.w.toNat % 2 = 0) ∧ decodeRaster f s.consumeFrame = .next t := by
  obtain ⟨f, hf, heven, hx⟩ := execDecodeFrame_passes hc
  exact ⟨f, hf, heven, hx.symm.trans h⟩

/-- Each pixel of the raster written is read back as the pixel decoded (rules R52, R186). -/
theorem readPixel_of_decodeRaster {f : PixelFormat} {s t : State} {p : Nat} (h : decodeRaster f s = .next t)
    (hp : p < s.w.toNat * s.h.toNat) : ∃ q, rasterPixel f s p = .ok q ∧ readPixel t p = .ok q := by
  obtain ⟨-, hpixels, -⟩ := decodeRaster_next h
  obtain ⟨q, hq, hhas⟩ := hpixels p hp
  obtain ⟨bytes, hb, hl, -⟩ := decodeRaster_spec h
  obtain ⟨hlen, -⟩ := rasterBytes_spec hb
  exact ⟨q, hq, readPixel_of_hasPixel (by omega) hhas⟩

/-- Settles O30: the frame of a good state lies within FB, so DECODE writes the raster (O27), and each pixel it has
written is within RASTER and is read back. -/
theorem decodedFrameReadsBack : Obligations.DecodedFrameReadsBack := by
  intro s d g hr hm hfmt hlen heven hd
  obtain ⟨-, hcap, -⟩ := g.frame hr
  obtain ⟨raster, hx, hpixels, -⟩ := decodeWritesTheRaster s d hr hm hfmt hlen hcap heven hd
  refine ⟨_, hx, rfl, fun r c hrow hcol => ?_, fun p hp => execRdPixel_range rfl hp⟩
  obtain ⟨q, hq, hhas⟩ := hpixels r c hrow hcol
  have hp : r * s.w.toNat + c < s.w.toNat * s.h.toNat := (rowCol_index hrow hcol).1
  rw [hlen, ← frameSize_eq] at hcap
  have hfits := raster_fits hcap
  refine ⟨pixResult q, execRdPixel_reads rfl hp (readPixel_of_hasPixel (by omega) hhas), ?_⟩
  rw [← hq]
  exact holdsPixel_pixResult rfl rfl rfl

/-- Two memories that hold the same pixel agree on its three bytes (rule R52). -/
theorem Memory.HasPixel.read_eq {m m' : Memory} {p p' k : Nat} {q : Rgb} (h : m.HasPixel p q) (h' : m'.HasPixel p' q)
    (hk : k < 3) : Memory.read m (3 * p + k) = Memory.read m' (3 * p' + k) := by
  obtain ⟨hr, hg, hb⟩ := h
  obtain ⟨hr', hg', hb'⟩ := h'
  obtain rfl | rfl | rfl : k = 0 ∨ k = 1 ∨ k = 2 := by omega
  · exact hr.trans hr'.symm
  · exact hg.trans hg'.symm
  · exact hb.trans hb'.symm

/-- In a frame of `n` pixels, a pixel depends on EXP and on the bytes of the frame only (rule R188); under YUV422
the frame is a number of groups. -/
theorem pix_congr_frame {f : PixelFormat} {s s' : State} {n i : Nat} (hexp : s.exp = s'.exp)
    (hread : ∀ k, k < 2 * n → readFb s k = readFb s' k) (hi : i < n) (heven : f = .yuv422 → n % 2 = 0) :
    pix f s i = pix f s' i := by
  have hy := hread (2 * i) (by omega)
  cases f with
  | rgb565 => simp only [pix, pix565, fbWord, hexp, hy, hread (2 * i + 1) (by omega)]
  | yuv422 =>
    have hgroups := heven rfl
    simp only [pix, pixYuv, hy, hread (4 * (i / 2) + 1) (by omega), hread (4 * (i / 2) + 3) (by omega)]
  | luma8 => simp only [pix, pixLuma, hy]

/-- A frame of even width is a number of groups (rule R150). -/
theorem even_pixels {w h : Nat} (hw : w % 2 = 0) : w * h % 2 = 0 := by simp [Nat.mul_mod, hw]

/-- A read of FB depends on that byte of FB only. -/
theorem readFb_congr_read {s s' : State} {k : Nat} (h : Memory.read s.fb k = Memory.read s'.fb k) :
    readFb s k = readFb s' k := by
  rw [readFb, readFb, h]

/-- The checks of DECODE depend on the configuration and the frame's length only (rules R180 to R184). -/
theorem firstFailure_congr {s s' : State} (hw : s.w = s'.w) (hh : s.h = s'.h) (hfmt : s.fmt = s'.fmt)
    (hmode : s.modeValid = s'.modeValid) (hready : s.frameReady = s'.frameReady) (hlen : s.fbLen = s'.fbLen) :
    firstFailure s = firstFailure s' := by
  rw [firstFailure, firstFailure, hw, hh, hfmt, hmode, hready, hlen]

/-- The response of a DECODE is that of the first check that fails, or OK (rules R180, R250). -/
theorem responses_of_decodeFrame {s t : State} (h : exec .decodeFrame s = .next t) :
    t.responses = ⟨(firstFailure s).getD .ok, 0⟩ :: s.responses := by
  obtain ⟨u, st, v, heff, rfl⟩ := effect_of_exec h
  cases heff with
  | reads hv => cases hv
  | noFrame hr => simp [firstFailure, hr]
  | decodeFails hr hf => simp [hf]
  | decodes hc => simp [(firstFailure_eq_none_iff s).mpr hc]

/-- Two frames with the same bytes, decoded under one configuration, give the same raster (rule R188). -/
theorem decodeRaster_congr {f : PixelFormat} {s s' t t' : State} {i : Nat} (hw : s.w = s'.w) (hh : s.h = s'.h)
    (hexp : s.exp = s'.exp) (hflip : s.flip = s'.flip)
    (hread : ∀ k, k < frameSize s.w s.h → Memory.read s.fb k = Memory.read s'.fb k)
    (heven : f = .yuv422 → s.w.toNat % 2 = 0) (h : decodeRaster f s = .next t) (h' : decodeRaster f s' = .next t')
    (hi : i < 3 * (s.w.toNat * s.h.toNat)) : Memory.read t.raster i = Memory.read t'.raster i := by
  obtain ⟨-, hpixels, -⟩ := decodeRaster_next h
  obtain ⟨-, hpixels', -⟩ := decodeRaster_next h'
  rw [frameSize_eq, Nat.mul_comm] at hread
  have hp : i / 3 < s.w.toNat * s.h.toNat := by omega
  have hpix : rasterPixel f s (i / 3) = rasterPixel f s' (i / 3) := by
    simp only [rasterPixel, ← hw, ← hh, ← hflip]
    exact pix_congr_frame hexp (fun k hk => readFb_congr_read (hread k hk)) (source_lt s.flip hp)
      fun hyuv => even_pixels (heven hyuv)
  obtain ⟨q, hq, hhas⟩ := hpixels (i / 3) hp
  obtain ⟨q', hq', hhas'⟩ := hpixels' (i / 3) (by rwa [hw, hh] at hp)
  obtain rfl : q = q' := Except.ok.inj (hq.symm.trans (hpix.trans hq'))
  have heq := hhas.read_eq hhas' (Nat.mod_lt i (by decide : 0 < 3))
  rwa [Nat.div_add_mod] at heq

/-- Settles O31: the first check that fails is that of the other state; when none does, both rasters are decoded
from the same bytes under the same configuration (`decodeRaster_congr`). -/
theorem rasterDependsOnFrameAndConfigOnly : Obligations.RasterDependsOnFrameAndConfigOnly := by
  intro s s' t t' hw hh hfmt hexp hflip hmode hready hlen hbytes h h'
  have hfail := firstFailure_congr hw hh hfmt hmode hready hlen
  refine ⟨by rw [responses_of_decodeFrame h, responses_of_decodeFrame h', hfail]; rfl, fun hok i hi => ?_⟩
  obtain ⟨rs, hrs⟩ := List.head?_eq_some_iff.mp hok
  have hc := checksPass_of_ok h hrs
  have hc' : checksPass s' := (firstFailure_eq_none_iff s').mp (hfail ▸ (firstFailure_eq_none_iff s).mpr hc)
  obtain ⟨f, hf, heven, hdec⟩ := decodeRaster_of_checksPass hc h
  obtain ⟨f', hf', -, hdec'⟩ := decodeRaster_of_checksPass hc' h'
  obtain rfl : f = f' := Option.some.inj (hf.symm.trans (hfmt ▸ hf'))
  obtain ⟨-, -, -, hsize, -⟩ := hc
  rw [hsize] at hbytes
  exact decodeRaster_congr (s := s.consumeFrame) (s' := s'.consumeFrame) hw hh hexp hflip hbytes heven hdec hdec' hi

/-- Of two decodings of one frame, row `r` of the one with FLIP is row `H - 1 - r` of the one without (rule R187). -/
theorem decodeRaster_flip {f : PixelFormat} {s s' t t' : State} {r c k : Nat} (hw : s'.w = s.w) (hh : s'.h = s.h)
    (hfb : s'.fb = s.fb) (hexp : s'.exp = s.exp) (hflip : s.flip = false) (hflip' : s'.flip = true)
    (h : decodeRaster f s = .next t) (h' : decodeRaster f s' = .next t') (hr : r < s.h.toNat) (hc : c < s.w.toNat)
    (hk : k < 3) :
    Memory.read t'.raster (3 * (r * s.w.toNat + c) + k) =
      Memory.read t.raster (3 * ((s.h.toNat - 1 - r) * s.w.toNat + c) + k) := by
  obtain ⟨-, hpixels, -⟩ := decodeRaster_next h
  obtain ⟨-, hpixels', -⟩ := decodeRaster_next h'
  rw [hw, hh] at hpixels'
  have hr' : s.h.toNat - 1 - r < s.h.toNat := by omega
  obtain ⟨q, hq, hhas⟩ := hpixels _ (rowCol_index hr' hc).1
  obtain ⟨q', hq', hhas'⟩ := hpixels' _ (rowCol_index hr hc).1
  have hsource : source s'.flip s.w.toNat s.h.toNat r c = source s.flip s.w.toNat s.h.toNat (s.h.toNat - 1 - r) c := by
    simp [source, hflip, hflip']
  have hpix : rasterPixel f s' (r * s.w.toNat + c) = rasterPixel f s ((s.h.toNat - 1 - r) * s.w.toNat + c) := by
    rw [← hw, rasterPixel_rowCol f (by rwa [hh]) (by rwa [hw]), hw, hh, rasterPixel_rowCol f hr' hc, hsource,
      pix_congr f hfb hexp]
  obtain rfl : q = q' := Except.ok.inj (hq.symm.trans (hpix.symm.trans hq'))
  exact hhas'.read_eq hhas hk

/-- Settles O32: the frame passes the same checks with FLIP as without, and both rasters are decoded from it
(`decodeRaster_flip`). -/
theorem flipReversesTheRows : Obligations.FlipReversesTheRows := by
  intro s t t' h h' hok
  have hc : checksPass { s with flip := false } := checksPass_of_ok h hok
  obtain ⟨f, hf, -, hdec⟩ := decodeRaster_of_checksPass hc h
  obtain ⟨f', hf', -, hdec'⟩ := decodeRaster_of_checksPass (s := { s with flip := true }) hc h'
  obtain rfl : f = f' := Option.some.inj (hf.symm.trans hf')
  obtain ⟨ht', -, -⟩ := decodeRaster_next hdec'
  refine ⟨congrArg State.responses ht', fun r c k hr hcol hk => ?_⟩
  exact decodeRaster_flip (s := ({ s with flip := false } : State).consumeFrame)
    (s' := ({ s with flip := true } : State).consumeFrame) rfl rfl rfl rfl rfl rfl hdec hdec' hr hcol hk

/-- Each raster pixel is decoded from a pixel of the frame (rule R187). -/
theorem rasterPixel_source (f : PixelFormat) {s : State} {p : Nat} (hp : p < s.w.toNat * s.h.toNat) :
    ∃ i, i < s.w.toNat * s.h.toNat ∧ rasterPixel f s p = pix f s i := ⟨_, source_lt s.flip hp, rfl⟩

/-- The bytes an RGB565 pixel is decoded from, in a frame whose every sample has the bytes `lo`, `hi` (rule R124). -/
theorem pix565_uniform {s : State} {i n : Nat} {lo hi : Byte} {q : Rgb}
    (hfb : ∀ k, 2 * k < n → Memory.read s.fb (2 * k) = some lo ∧ Memory.read s.fb (2 * k + 1) = some hi)
    (hlt : 2 * i < n) (h : pix565 s i = .ok q) :
    q = if s.exp = true then expandProp (hi ++ lo) else expandShift (hi ++ lo) := by
  obtain ⟨⟨b, hb⟩, b', hb'⟩ := pix565_reads h
  obtain ⟨hlo, hhi⟩ := hfb i hlt
  obtain rfl : b = lo := Option.some.inj ((readFb_eq_ok.mp hb).2.symm.trans hlo)
  obtain rfl : b' = hi := Option.some.inj ((readFb_eq_ok.mp hb').2.symm.trans hhi)
  exact Except.ok.inj (h.symm.trans (pix565_of_bytes hb hb'))

/-- The bytes a YUV422 pixel is decoded from, in a frame whose every luma byte is `y` and chroma byte `c` (rule
R151). -/
theorem pixYuv_uniform {s : State} {i n : Nat} {y c : Byte} {q : Rgb}
    (hfb : ∀ k, 2 * k < n → Memory.read s.fb (2 * k) = some y ∧ Memory.read s.fb (2 * k + 1) = some c)
    (hluma : 2 * i < n) (hchroma : 4 * (i / 2) + 2 < n) (h : pixYuv s i = .ok q) : q = yuv2rgb y c c := by
  obtain ⟨⟨b, hb⟩, ⟨u, hu⟩, v, hv⟩ := pixYuv_reads h
  obtain ⟨hy, -⟩ := hfb i hluma
  obtain ⟨-, hc⟩ := hfb (2 * (i / 2)) (by omega)
  obtain ⟨-, hc'⟩ := hfb (2 * (i / 2) + 1) (by omega)
  rw [show 2 * (2 * (i / 2)) + 1 = 4 * (i / 2) + 1 by omega] at hc
  rw [show 2 * (2 * (i / 2) + 1) + 1 = 4 * (i / 2) + 3 by omega] at hc'
  obtain rfl : b = y := Option.some.inj ((readFb_eq_ok.mp hb).2.symm.trans hy)
  obtain rfl : u = c := Option.some.inj ((readFb_eq_ok.mp hu).2.symm.trans hc)
  obtain rfl : v = u := Option.some.inj ((readFb_eq_ok.mp hv).2.symm.trans hc')
  exact Except.ok.inj (h.symm.trans (pixYuv_of_bytes hb hu hv))

/-- Settles O33: each raster pixel is decoded from a pixel of the frame, and all pixels of the frame have the same
bytes. -/
theorem uniformFramesDecodeUniformly : Obligations.UniformFramesDecodeUniformly := by
  intro s t h hok
  have hc := checksPass_of_ok h hok
  obtain ⟨f, hf, heven, hdec⟩ := decodeRaster_of_checksPass hc h
  obtain ⟨-, -, -, hlen, -⟩ := hc
  refine ⟨fun hfmt hexp hfb p hp => ?_, fun hfmt hfb p hp => ?_⟩
  · obtain rfl : f = .rgb565 := Option.some.inj (hf.symm.trans ((formatOfCode_eq_some_iff _ .rgb565).mpr hfmt))
    obtain ⟨q, hq, hread⟩ := readPixel_of_decodeRaster hdec hp
    obtain ⟨i, hi, hpix⟩ := rasterPixel_source .rgb565 (s := s.consumeFrame) hp
    rw [State.consumeFrame_w, State.consumeFrame_h] at hi
    have hq' : q = _ := pix565_uniform hfb (by omega) (hpix.symm.trans hq)
    rw [hread, hq', hexp]
    rfl
  · obtain rfl : f = .yuv422 := Option.some.inj (hf.symm.trans ((formatOfCode_eq_some_iff _ .yuv422).mpr hfmt))
    obtain ⟨q, hq, hread⟩ := readPixel_of_decodeRaster hdec hp
    obtain ⟨i, hi, hpix⟩ := rasterPixel_source .yuv422 (s := s.consumeFrame) hp
    rw [State.consumeFrame_w, State.consumeFrame_h] at hi
    have hgroups := even_pixels (h := s.h.toNat) (heven rfl)
    have hq' : q = _ := pixYuv_uniform hfb (by omega) (by omega) (hpix.symm.trans hq)
    rw [hread, hq']
    rfl

/-- SIZE_MISMATCH is the first failure exactly when the frame's length is not `W * H * 2`, once the checks before it
pass (rules R184, R250). -/
theorem firstFailure_eq_sizeMismatch_iff {s : State} (hr : s.frameReady = true) (hm : s.modeValid = true)
    (hfmt : s.fmt ≠ 3) : (firstFailure s).getD .ok = .sizeMismatch ↔ frameSize s.w s.h ≠ s.fbLen.toNat := by
  rw [firstFailure, if_neg (by simp [hr]), if_neg (by simp [hm]), if_neg hfmt]
  split_ifs with hl hodd
  · exact ⟨fun _ => hl.symm, fun _ => rfl⟩
  · exact ⟨nofun, fun h => absurd h.symm hl⟩
  · exact ⟨nofun, fun h => absurd h.symm hl⟩

/-- Settles O34: SET_GEOM keeps the frame, whose length is then the third check of DECODE, after which no failure is
SIZE_MISMATCH. -/
theorem geometryChangeDecidesSizeMismatch : Obligations.GeometryChangeDecidesSizeMismatch := by
  intro s t u w h hset hok hr hm hfmt hdec
  rcases execSetGeom_cases w h s with ⟨-, hx⟩ | ⟨-, hx⟩ <;> obtain rfl := next_inj.mp (hset.symm.trans hx)
  · refine ⟨hr, rfl, ?_⟩
    have hiff := firstFailure_eq_sizeMismatch_iff (s := (s.setGeometry w h).answer .ok 0) hr hm hfmt
    simp only [responses_of_decodeFrame hdec, List.cons.injEq, and_true, Response.mk.injEq]
    exact hiff
  · simp at hok

end Sys2Proof.Machine

/-! The numeric facts (rules R121 to R128, R141 to R149, R153): rounding, the ranges of the accumulators, the grey
ramp, and how the two expansions differ and round-trip. -/

namespace Sys2Proof.Machine

open Sys2Proof Sys2Proof.Reference

/-- The rounding shift takes an integer to the nearest multiple of 256, a tie upwards (rule R141). -/
theorem rnd8_nearest (m : Int) : 256 * rnd8 m - 128 ≤ m ∧ m < 256 * rnd8 m + 128 := by
  obtain ⟨hle, hlt⟩ := rnd8_rounds_down m
  omega

/-- A tie is rounded upwards (rule R141). -/
theorem rnd8_tie (k : Int) : rnd8 (256 * k + 128) = k + 1 := by
  obtain ⟨hle, hlt⟩ := rnd8_rounds_down (256 * k + 128)
  omega

/-- Settles O45, by the bounds of the rounding shift; the three values are those of its formula. -/
theorem rnd8RoundsToNearestTieUp : Obligations.Rnd8RoundsToNearestTieUp :=
  ⟨rnd8_nearest, rnd8_tie, rfl, rfl, rfl⟩

/-- The offset luma of a byte (rule R143). -/
theorem offC_bounds (y : Byte) : -16 ≤ offC y ∧ offC y ≤ 239 := by
  have := y.isLt
  rw [offC]
  omega

/-- The offset chroma of a byte (rule R143). -/
theorem offD_bounds (u : Byte) : -128 ≤ offD u ∧ offD u ≤ 127 := by
  have := u.isLt
  rw [offD]
  omega

/-- The other offset chroma of a byte (rule R143). -/
theorem offE_bounds (v : Byte) : -128 ≤ offE v ∧ offE v ≤ 127 := offD_bounds v

/-- Settles O46: each accumulator is linear in the three offsets, whose bounds it reaches at the triples given. -/
theorem accumulatorRangesAreExact : Obligations.AccumulatorRangesAreExact := by
  refine ⟨fun y u v => ?_, fun x => ⟨rfl, rfl, rfl, rfl⟩, rfl, rfl⟩
  have hc := offC_bounds y
  have hd := offD_bounds u
  have he := offE_bounds v
  simp only [accR, accG, accB]
  omega

/-- Settles O47: for a nonnegative accumulator both shifts are one, and a negative one is clipped to 0 by either. -/
theorem clippingHidesTheRounding : Obligations.ClippingHidesTheRounding := by
  refine ⟨fun a => ?_, -129, by decide⟩
  rw [asr_eight]
  rcases Int.le_total 0 a with ha | ha
  · rw [Int.tdiv_eq_ediv_of_nonneg ha]
  · have hfloor : a / 256 ≤ 0 := by omega
    have htrunc : 0 ≤ (-a).tdiv 256 := Int.tdiv_nonneg (neg_nonneg.mpr ha) (by decide)
    rw [Int.neg_tdiv, neg_nonneg] at htrunc
    rw [clip8, clip8, min_eq_right (by omega), min_eq_right (by omega), max_eq_left hfloor, max_eq_left htrunc]

/-- With neutral chroma the three accumulators are one (rule R149). -/
theorem acc_neutral (y : Byte) :
    accR y 128 128 = 298 * offC y + 128 ∧ accG y 128 128 = 298 * offC y + 128 ∧
      accB y 128 128 = 298 * offC y + 128 := by
  have hd : offD 128 = 0 := rfl
  have he : offE 128 = 0 := rfl
  rw [accR, accG, accB, hd, he]
  omega

/-- The level of the grey that a luma byte becomes under neutral chroma (rule R149). -/
def greyLevel (y : Byte) : Int := clip8 ((298 * offC y + 128) / 256)

/-- Neutral chroma gives a grey of that level (rule R149). -/
theorem yuv2rgb_neutral (y : Byte) : yuv2rgb y 128 128 = grey (byteOfInt (greyLevel y)) := by
  obtain ⟨hr, hg, hb⟩ := acc_neutral y
  rw [yuv2rgb, hr, hg, hb]
  rfl

/-- The clipper is monotone (rule R140). -/
theorem clip8_mono {a b : Int} (h : a ≤ b) : clip8 a ≤ clip8 b :=
  max_le_max le_rfl (min_le_min le_rfl h)

/-- The grey level does not decrease with the luma (rule R149). -/
theorem greyLevel_mono {a b : Byte} (h : a.toNat ≤ b.toNat) : greyLevel a ≤ greyLevel b :=
  clip8_mono (by simp only [offC]; omega)

/-- The lower end of the ramp (rule R149). -/
theorem greyLevel_of_le {y : Byte} (h : y.toNat ≤ 16) : greyLevel y = 0 := by
  have hneg : (298 * offC y + 128) / 256 ≤ 0 := by simp only [offC]; omega
  rw [greyLevel, clip8]
  omega

/-- The upper end of the ramp (rule R149). -/
theorem greyLevel_of_ge {y : Byte} (h : 235 ≤ y.toNat) : greyLevel y = 255 := by
  have hbig : 255 ≤ (298 * offC y + 128) / 256 := by simp only [offC]; omega
  rw [greyLevel, clip8]
  omega

/-- Settles O48: the pixel is the grey of its level (`yuv2rgb_neutral`), which is monotone and has the two ends
given. -/
theorem neutralChromaGivesAGreyRamp : Obligations.NeutralChromaGivesAGreyRamp := by
  refine ⟨fun y => ?_, fun a b hab => ?_, fun y => ⟨fun hy => ?_, fun hy => ?_⟩⟩
  · rw [yuv2rgb_neutral]
    exact ⟨rfl, rfl, byteOfInt_clip8_toNat _⟩
  · have ha : ((byteOfInt (greyLevel a)).toNat : Int) = greyLevel a := byteOfInt_clip8_toNat _
    have hb : ((byteOfInt (greyLevel b)).toNat : Int) = greyLevel b := byteOfInt_clip8_toNat _
    have hmono := greyLevel_mono hab
    rw [yuv2rgb_neutral, yuv2rgb_neutral]
    exact Int.ofNat_le.mp (ha.le.trans (hmono.trans hb.ge))
  · rw [yuv2rgb_neutral, greyLevel_of_le hy]
    rfl
  · rw [yuv2rgb_neutral, greyLevel_of_ge hy]
    rfl

/-- Settles O49: the chroma terms cancel in each difference, and the two lanes of a PIX2 result are its pixels
(`pix2Result_lanes`), which are one pixel for equal Y. -/
theorem pairSharesItsChroma : Obligations.PairSharesItsChroma := by
  refine ⟨fun y0 y1 u v => ?_, fun s y u v => ⟨_, exec_of_readResult rfl, ?_⟩⟩
  · simp only [accR, accG, accB, offC]
    omega
  · obtain ⟨lane0, -, lane1, -⟩ := pix2Result_lanes (yuv2rgb y u v) (yuv2rgb y u v)
    exact lane0.trans lane1.symm

/-- Settles O50: `255 * f / 31 = 8 * f + 7 * f / 31` for the five-bit fields and `255 * g / 63 = 4 * g + g / 21` for
the six-bit one. -/
theorem proportionalExceedsShift : Obligations.ProportionalExceedsShift := by
  intro w
  obtain ⟨sr, sg, sb⟩ := expandShift_toNat w
  obtain ⟨pr, pg, pb⟩ := expandProp_toNat w
  obtain ⟨fr, fg, fb⟩ := fields_toNat w
  rw [sr, sg, sb, pr, pg, pb, fr, fg, fb]
  omega

/-- The fields of a sample put together from three (rule R120). -/
theorem fields_of_toNat {w : Sample} {r g b : Nat} (hw : w.toNat = 2048 * r + 32 * g + b) (hg : g < 64) (hb : b < 32) :
    field5R w = r ∧ field6G w = g ∧ field5B w = b := by
  obtain ⟨fr, fg, fb⟩ := fields_toNat w
  omega

/-- The rounding encoder of a byte to 5 bits and to 6 bits (rule R128). -/
theorem encodeRound_eq (v : Nat) :
    encodeRound 5 v = min 31 ((v + 4) / 8) ∧ encodeRound 6 v = min 63 ((v + 2) / 4) := ⟨rfl, rfl⟩

/-- The truncating encoder of a byte to 5 bits and to 6 bits (rule R128). -/
theorem encodeTrunc_eq (v : Nat) : encodeTrunc 5 v = v / 8 ∧ encodeTrunc 6 v = v / 4 := ⟨rfl, rfl⟩

/-- A sample whose R and B fields are one value expands by shift to equal R and B, eight times that value (rule
R121). -/
theorem expandShift_of_fields {w : Sample} {f g : Nat} (hw : w.toNat = 2048 * f + 32 * g + f) (hg : g < 64)
    (hf : f < 32) :
    (expandShift w).r = (expandShift w).b ∧ (expandShift w).r.toNat = 8 * f ∧ (expandShift w).g.toNat = 4 * g := by
  obtain ⟨fr, fg, fb⟩ := fields_of_toNat hw hg hf
  obtain ⟨sr, sg, sb⟩ := expandShift_toNat w
  rw [fr] at sr
  rw [fg] at sg
  rw [fb] at sb
  exact ⟨BitVec.eq_of_toNat_eq (sr.trans sb.symm), sr, sg⟩

/-- Settles O51: the expansion multiplies the encoded fields by 8 and 4 (`expandShift_of_fields`). -/
theorem shiftRoundTripError : Obligations.ShiftRoundTripError := by
  intro v r g b hv w hw
  obtain ⟨round5, round6⟩ := encodeRound_eq v
  obtain ⟨trunc5, trunc6⟩ := encodeTrunc_eq v
  refine ⟨fun hr hg hb => ?_, fun hr hg hb => ?_⟩
  · obtain rfl : b = r := hb.trans hr.symm
    rw [round5] at hr
    rw [round6] at hg
    obtain ⟨heq, hr', hg'⟩ := expandShift_of_fields hw (by omega) (by omega)
    refine ⟨heq, ?_⟩
    rw [hr', hg']
    omega
  · obtain rfl : b = r := hb.trans hr.symm
    rw [trunc5] at hr
    rw [trunc6] at hg
    obtain ⟨heq, hr', hg'⟩ := expandShift_of_fields hw (by omega) (by omega)
    refine ⟨heq, ?_⟩
    rw [hr', hg']
    omega

end Sys2Proof.Machine

/-! When the model stops (rules R51, R52; log entries 3 and 5): exactly on an access to a byte that does not exist
or that nothing has written. -/

namespace Sys2Proof.Machine

open Sys2Proof Sys2Proof.Reference

/-- A pixel stops only at one of the bytes that its format reads (rules R124, R151, R171). -/
theorem pix_error {f : PixelFormat} {s : State} {i : Nat} {e : Fault} (h : pix f s i = .error e) :
    ∃ k, pixelReads f.code i k ∧ readFb s k = .error e := by
  cases f with
  | rgb565 =>
    rcases pix565_error h with h | h
    · exact ⟨_, .inl ⟨rfl, .inl rfl⟩, h⟩
    · exact ⟨_, .inl ⟨rfl, .inr rfl⟩, h⟩
  | yuv422 =>
    rcases pixYuv_error h with h | h | h
    · exact ⟨_, .inr (.inl ⟨rfl, .inl rfl⟩), h⟩
    · exact ⟨_, .inr (.inl ⟨rfl, .inr (.inl rfl)⟩), h⟩
    · exact ⟨_, .inr (.inl ⟨rfl, .inr (.inr rfl)⟩), h⟩
  | luma8 => exact ⟨_, .inr (.inr ⟨rfl, rfl⟩), pixLuma_error h⟩

/-- A pixel that answers has read every byte that its format reads (rules R124, R151, R171). -/
theorem pix_reads {f : PixelFormat} {s : State} {i k : Nat} {q : Rgb} (h : pix f s i = .ok q)
    (hk : pixelReads f.code i k) : ∃ b, readFb s k = .ok b := by
  cases f with
  | rgb565 =>
    obtain ⟨hlo, hhi⟩ := pix565_reads h
    rcases hk with ⟨-, rfl | rfl⟩ | ⟨hcode, -⟩ | ⟨hcode, -⟩
    · exact hlo
    · exact hhi
    · exact absurd hcode (by decide)
    · exact absurd hcode (by decide)
  | yuv422 =>
    obtain ⟨hy, hu, hv⟩ := pixYuv_reads h
    rcases hk with ⟨hcode, -⟩ | ⟨-, rfl | rfl | rfl⟩ | ⟨hcode, -⟩
    · exact absurd hcode (by decide)
    · exact hy
    · exact hu
    · exact hv
    · exact absurd hcode (by decide)
  | luma8 =>
    rcases hk with ⟨hcode, -⟩ | ⟨hcode, -⟩ | ⟨-, rfl⟩
    · exact absurd hcode (by decide)
    · exact absurd hcode (by decide)
    · exact pixLuma_reads h

/-- A raster pixel stops only at a byte that the raster loop reads (rules R180, R187). -/
theorem rasterPixel_error {f : PixelFormat} {s : State} {p : Nat} {e : Fault} (hf : formatOfCode s.fmt = some f)
    (hp : p < s.w.toNat * s.h.toNat) (h : rasterPixel f s p = .error e) :
    ∃ k, decodeReads s k ∧ readFb s k = .error e := by
  obtain ⟨k, hk, he⟩ := pix_error h
  have hw : 0 < s.w.toNat := Nat.pos_of_ne_zero fun h0 => by simp [h0] at hp
  refine ⟨k, ⟨p / s.w.toNat, p % s.w.toNat, Nat.div_lt_of_lt_mul hp, Nat.mod_lt p hw, ?_⟩, he⟩
  rw [(formatOfCode_eq_some_iff _ _).mp hf]
  exact hk

/-- When every raster pixel answers, every byte that the raster loop reads has been read (rules R180, R187). -/
theorem readFb_of_rasterPixels {f : PixelFormat} {s : State} {k : Nat} (hf : formatOfCode s.fmt = some f)
    (h : ∀ p, p < s.w.toNat * s.h.toNat → ∃ q, rasterPixel f s p = .ok q) (hk : decodeReads s k) :
    ∃ b, readFb s k = .ok b := by
  obtain ⟨r, c, hr, hc, hreads⟩ := hk
  obtain ⟨q, hq⟩ := h _ (rowCol_index hr hc).1
  rw [rasterPixel_rowCol f hr hc] at hq
  exact pix_reads hq ((formatOfCode_eq_some_iff _ _).mp hf ▸ hreads)

/-- RD_PIXEL stops exactly at a pixel of the raster held that is past RASTER or has an unwritten byte (rules R52,
R190). -/
theorem execRdPixel_eq_fault {p : Nat} {s : State} {e : Fault} :
    execRdPixel p s = .fault e ↔
      s.rasterValid = true ∧ p < s.rastW.toNat * s.rastH.toNat ∧ readPixel s p = .error e := by
  rw [execRdPixel]
  split_ifs with hv hp
  · simp [hv]
  · simp [Nat.not_lt.mpr hp]
  · simp [onOk_eq_fault, hv, Nat.lt_of_not_le hp]

/-- A DECODE that stops has passed its checks and stops in the raster loop (rule R180). -/
theorem decodeRaster_of_fault {s : State} {e : Fault} (h : execDecodeFrame s = .fault e) :
    checksPass s ∧ ∃ f, formatOfCode s.fmt = some f ∧ decodeRaster f s.consumeFrame = .fault e := by
  have hr : s.frameReady = true := by
    by_contra hr
    simp [execDecodeFrame_noFrame (by simpa using hr)] at h
  have hc : checksPass s := by
    refine (firstFailure_eq_none_iff s).mp (Option.eq_none_iff_forall_ne_some.mpr fun st hf => ?_)
    simp [execDecodeFrame_fails hr hf] at h
  obtain ⟨f, hf, -, hx⟩ := execDecodeFrame_passes hc
  exact ⟨hc, f, hf, hx.symm.trans h⟩

/-- A DECODE that stops: a byte it reads does not exist or is unwritten, or the raster does not fit. -/
theorem execDecodeFrame_fault {s : State} {e : Fault} (h : execDecodeFrame s = .fault e) :
    checksPass s ∧
      (e = .fbOutOfRange ∧ (∃ k, decodeReads s k ∧ Config.fbCapacity ≤ k) ∨
        e = .fbUnwritten ∧ (∃ k, decodeReads s k ∧ k < Config.fbCapacity ∧ Memory.read s.fb k = none) ∨
        e = .rasterOutOfRange ∧ Config.rasterCapacity < 3 * (s.w.toNat * s.h.toNat) ∧
          ∀ k, decodeReads s k → k < Config.fbCapacity ∧ ∃ b, Memory.read s.fb k = some b) := by
  obtain ⟨hc, f, hf, hdec⟩ := decodeRaster_of_fault h
  refine ⟨hc, ?_⟩
  rcases decodeRaster_fault hdec with ⟨p, hp, hpix⟩ | ⟨hall, hcap, rfl⟩
  · obtain ⟨k, hk, he⟩ := rasterPixel_error (s := s.consumeFrame) hf hp hpix
    rcases readFb_eq_error.mp he with ⟨hcap, rfl⟩ | ⟨hcap, hnone, rfl⟩
    · exact .inl ⟨rfl, k, hk, hcap⟩
    · exact .inr (.inl ⟨rfl, k, hk, hcap, hnone⟩)
  · refine .inr (.inr ⟨rfl, hcap, fun k hk => ?_⟩)
    obtain ⟨b, hb⟩ := readFb_of_rasterPixels (s := s.consumeFrame) hf hall hk
    obtain ⟨hlt, hread⟩ := readFb_eq_ok.mp hb
    exact ⟨hlt, b, hread⟩

/-- A DECODE that completes its raster loop has read every byte it reads, and its raster fits. -/
theorem reads_of_decodeRaster {f : PixelFormat} {s t : State} (hf : formatOfCode s.fmt = some f)
    (h : decodeRaster f s = .next t) :
    (∀ k, decodeReads s k → k < Config.fbCapacity ∧ ∃ b, Memory.read s.fb k = some b) ∧
      3 * (s.w.toNat * s.h.toNat) ≤ Config.rasterCapacity := by
  obtain ⟨bytes, hb, hl, -⟩ := decodeRaster_spec h
  obtain ⟨-, hpixels, -⟩ := decodeRaster_next h
  refine ⟨fun k hk => ?_, (rasterBytes_spec hb).1 ▸ hl⟩
  obtain ⟨b, hread⟩ := readFb_of_rasterPixels hf (fun p hp => (hpixels p hp).imp fun _ hq => hq.1) hk
  obtain ⟨hlt, hread⟩ := readFb_eq_ok.mp hread
  exact ⟨hlt, b, hread⟩

/-- DECODE stops when its checks pass and a byte it reads does not exist or is unwritten, or the raster does not
fit. -/
theorem execDecodeFrame_stops {s : State} (hc : checksPass s)
    (hbad : (∃ k, decodeReads s k ∧ (Config.fbCapacity ≤ k ∨ Memory.read s.fb k = none)) ∨
      Config.rasterCapacity < 3 * (s.w.toNat * s.h.toNat)) : ∃ e, execDecodeFrame s = .fault e := by
  obtain ⟨f, hf, -, hx⟩ := execDecodeFrame_passes hc
  rw [hx]
  refine (decodeRaster_next_or_fault f s.consumeFrame).resolve_left fun ⟨t, ht⟩ => ?_
  obtain ⟨hreads, hfits⟩ := reads_of_decodeRaster (s := s.consumeFrame) hf ht
  rcases hbad with ⟨k, hk, hcap | hnone⟩ | hcap
  · exact Nat.not_lt.mpr hcap (hreads k hk).1
  · obtain ⟨-, b, hb⟩ := hreads k hk
    exact nomatch hb.symm.trans hnone
  · exact Nat.not_lt.mpr hfits hcap

/-- A memory access that stops a command stops it with a fault. -/
theorem onOk_ne_refused {α : Type} {x : Except Fault α} {k : α → Outcome} {r : Refusal}
    (hk : ∀ a, k a ≠ .refused r) : onOk x k ≠ .refused r := by
  cases x with
  | ok a => exact hk a
  | error e => exact nofun

/-- RX_BYTE is not refused. -/
theorem execRxByte_ne_refused (b : Byte) (s : State) (r : Refusal) : execRxByte b s ≠ .refused r := by
  rw [execRxByte]
  split_ifs with hr
  · exact nofun
  · refine onOk_ne_refused fun t => ?_
    by_cases he : t.count.toNat + 1 = frameSize t.w t.h
    · exact countByte_last he ▸ nofun
    · exact countByte_other he ▸ nofun

/-- RD_PIXEL is not refused. -/
theorem execRdPixel_ne_refused (p : Nat) (s : State) (r : Refusal) : execRdPixel p s ≠ .refused r := by
  rw [execRdPixel]
  split_ifs with hv hp
  · exact nofun
  · exact nofun
  · exact onOk_ne_refused fun q => nofun

/-- DECODE is not refused. -/
theorem execDecodeFrame_ne_refused (s : State) (r : Refusal) : execDecodeFrame s ≠ .refused r := by
  cases hr : s.frameReady with
  | false => exact execDecodeFrame_noFrame hr ▸ nofun
  | true =>
    cases hf : firstFailure s with
    | some st => exact execDecodeFrame_fails hr hf ▸ nofun
    | none =>
      obtain ⟨f, -, -, hx⟩ := execDecodeFrame_passes ((firstFailure_eq_none_iff s).mp hf)
      rcases decodeRaster_next_or_fault f s.consumeFrame with ⟨t, ht⟩ | ⟨e, he⟩
      · exact (hx.trans ht) ▸ nofun
      · exact (hx.trans he) ▸ nofun

/-- No command is refused. -/
theorem exec_ne_refused (i : Instr) (s : State) (r : Refusal) : exec i s ≠ .refused r := by
  rcases exec_completes_or_accesses i s with ⟨t, ht⟩ | ⟨b, rfl⟩ | ⟨p, rfl⟩ | rfl
  · exact ht ▸ nofun
  · exact execRxByte_ne_refused b s r
  · exact execRdPixel_ne_refused p s r
  · exact execDecodeFrame_ne_refused s r

/-- Settles O59: each command that accesses a memory stops as its own lemma says, and the others answer. -/
theorem impossibleAccessesStop : Obligations.ImpossibleAccessesStop := by
  refine fun s e => ⟨fun b => execRxByte_eq_fault, fun p => ?_, execDecodeFrame_fault, execDecodeFrame_stops,
    fun i h => ?_, fun i r => exec_ne_refused i s r⟩
  · rw [exec_rdPixel, execRdPixel_eq_fault, readPixel_eq_error]
  · refine (exec_completes_or_accesses i s).resolve_left fun ⟨t, ht⟩ => ?_
    exact nomatch ht.symm.trans h

end Sys2Proof.Machine
